-- ==== Sys2Proof/Word.lean ====
section
/-! DEFINITION. The word and byte types of the block: every register is 64 bits wide (00_scope.md R5, R7). -/

namespace Sys2Proof

/-- A 64-bit data word, register value or memory-port address (R5: `W`, `ACC_WIDTH`, `K_WIDTH`, `ADDR_WIDTH` are 64). -/
abbrev Word := BitVec 64

/-- One byte of the platform's memory. -/
abbrev Byte := BitVec 8

end Sys2Proof
end

