-- ==== Sys2Proof/Config.lean ====
section
/-! DEFINITION. The parameters of 00_scope.md R5 that have a fixed value, and the values the model gives the OPEN
platform parameters AT RESET (log entries 1, 2, 3). The OPEN parameters themselves (`BLOCK_BASE`, `MemAdmit`,
`MemBytes`) are plain data of State, so that a statement about every state holds for every platform. -/

namespace Sys2Proof.Config

/-- `W`, the data word width in bits (R5). -/
abbrev wordBits : Nat := 64

/-- `REG_WINDOW`, the size in bytes of the register window (R5, R20). -/
abbrev regWindow : Nat := 0x80

/-- The number of byte addresses of the memory space, `2 ^ ADDR_WIDTH` (R5, R64). -/
abbrev memSpace : Nat := 2 ^ 64

/-- What an address no cell of the memory list names reads as. DESIGN CHOICE (log entry 3): a convention of the
list, under which every content of the memory is one canonical list. -/
abbrev unwritten : Byte := 0

/-- `BLOCK_BASE` in State.reset. DESIGN CHOICE (log entry 2): R5 leaves it OPEN. -/
abbrev resetBlockBase : Nat := 0x40000000

end Sys2Proof.Config
end

