-- ==== Sys2Proof/Syntax.lean ====
section
/-! DEFINITION. The block's commands: one constructor per row of spec/opcode_table.json (30_encoding.md R73), and what
the decoder answers on a command word (R75). No command has an operand field (R72). -/

namespace Sys2Proof

/-- The four commands of the opcode map (R73). -/
inductive Instr where
  /-- `NOP`: no operation (41_commands.md R122). -/
  | nop
  /-- `CLEAR`: clear the result, the run bookkeeping and the status (R123). -/
  | clear
  /-- `STEP`: accumulate the popcount of OPA xor OPB (R124). -/
  | step
  /-- `RUN`: start a Hamming-distance run over the two buffers (R125 to R127). -/
  | run
  deriving DecidableEq, Repr

/-- The decoder's answer on a command word (R75): a command, or `Illegal(c)` with the word itself. -/
inductive Decoded where
  | command (i : Instr)
  | illegal (c : Word)
  deriving DecidableEq, Repr

end Sys2Proof
end

