-- ==== Sys2Proof/Machine/State.lean ====
section
/-! DEFINITION. The state of the machine: the block's registers (10_state.md R20 to R41), the platform it sits in
(`BLOCK_BASE`, `MemAdmit`, the memory), the turns its agents still take, and what its two ports show in a step. All of
it is plain data. -/

namespace Sys2Proof.Machine

/-- The cause codes of 60_exceptions.md R201. Codes 5 to 15 are never produced, so no constructor stands for one. -/
inductive Cause where
  /-- Code 0: no error. -/
  | none
  /-- Code 1, R202: an accepted illegal command word. -/
  | illegalCmd
  /-- Code 2, R203: RUN with a negative K. -/
  | negK
  /-- Code 3, R204: RUN with words to read and a base that is not a multiple of 8. -/
  | misaligned
  /-- Code 4, R205: an engine step whose read the platform refuses. -/
  | busError
  deriving DecidableEq, Repr

/-- The fields of STATUS (R22). The reserved bits 7:4 and 63:12 read 0 and no rule writes them (R27), so they are no
state; `statusWord` (Flags.lean) is the 64-bit register the host reads. -/
structure Status where
  /-- Bit 0: a run is in progress (R23). -/
  busy : Bool
  /-- Bit 1: the last accepted command other than NOP completed without error (R24). -/
  done : Bool
  /-- Bit 2: that command, or its run, ended in an error (R25). -/
  err : Bool
  /-- Bit 3, sticky: a host write was dropped because BUSY was 1 (R26). -/
  ovr : Bool
  /-- Bits 11:8: the code of the last recorded error (R27). -/
  cause : Cause
  deriving DecidableEq, Repr

/-- The registers of R20 that hold state: by R39 exactly the state of the block. CMD stores nothing (R21). -/
structure Regs where
  /-- STATUS, offset 0x08 (R22). -/
  status : Status
  /-- X_BASE, offset 0x10 (R28). -/
  xBase : Word
  /-- Y_BASE, offset 0x18 (R29). -/
  yBase : Word
  /-- K, offset 0x20 (R30). -/
  k : Word
  /-- ACC, offset 0x28 (R31). -/
  acc : Word
  /-- OPA, offset 0x30 (R32). -/
  opa : Word
  /-- OPB, offset 0x38 (R33). -/
  opb : Word
  /-- NITER, offset 0x40 (R34). -/
  niter : Word
  /-- IDX, offset 0x48 (R35). -/
  idx : Word
  /-- FAULT_INFO, offset 0x50 (R36). -/
  faultInfo : Word
  deriving DecidableEq, Repr

/-- The eleven registers of the window by name (R20). -/
inductive RegName where
  | cmd | status | xBase | yBase | k | acc | opa | opb | niter | idx | faultInfo
  deriving DecidableEq, Repr

/-- A range of memory-port addresses whose 8-byte reads the platform answers. -/
structure Region where
  base : Nat
  size : Nat
  deriving DecidableEq, Repr

/-- The OPEN platform parameters of 00_scope.md R5: `BLOCK_BASE`, and `MemAdmit` as a list of ranges (any set of the
finitely many addresses is one). No step changes them. -/
structure Platform where
  blockBase : Nat
  admits : List Region
  deriving DecidableEq, Repr

/-- The platform's memory, `MemBytes` (R5, R51): cells in rising address order, none equal to `Config.unwritten`
(`Memory.wf`, Ops.lean). -/
abbrev Memory := List Host.Cell

/-- A write of the platform's memory by the host or another agent (R6, R60): byte `j` of `bytes` goes to
`(addr + j) mod 2^64`, all of them at one moment. The block itself never makes one (R50). -/
structure MemWrite where
  addr : Word
  bytes : List Byte
  deriving DecidableEq, Repr

/-- A host access on the register port (R150): its width in bits, its host address and, for a write, the value. -/
inductive HostAccess where
  | read (width addr : Nat)
  | write (width addr : Nat) (value : Word)
  deriving DecidableEq, Repr

/-- One turn of one agent (R6, R60, R129, R250). -/
inductive Event where
  /-- A host register access; the block knows no host by name (R159). -/
  | host (a : HostAccess)
  /-- The engine's turn (R126); `between` are the memory writes of other agents that land after its x read and
  before its y read, which are two read events (R57, R60 part 4; log entry 6). -/
  | engine (between : List MemWrite)
  /-- The host, or another agent, writes the platform's memory (R6). -/
  | memory (w : MemWrite)
  /-- The reset input is asserted (R250). -/
  | reset
  deriving DecidableEq, Repr

/-- The state of the machine. `regs` is the block (R39); the other fields are the platform's and the model's own. -/
structure State where
  /-- The block's registers (R20, R39). -/
  regs : Regs
  /-- `BLOCK_BASE` and `MemAdmit` (R5). -/
  platform : Platform
  /-- `MemBytes`: what the platform's memory holds now (R5, R51). -/
  mem : Memory
  /-- The model's own: the turns still to be taken, the next one first; any interleaving is some list (R6). -/
  pending : List Event
  /-- The model's own: what the register port returned in the last step, if that was a host read (R151). -/
  reply : Option Word
  /-- The model's own: the addresses the memory port read in the last step, in order (R60 part 1). -/
  reads : List Word
  deriving DecidableEq, Repr

/-- Why a step can stop with a fault. -/
inductive Fault where
  /-- Raised by `engineStep` when the memory port would read an address that is no multiple of 8: `MemRead` has no
  meaning there (R51) and the block never issues such a read (R50, R55). Safe: the model stops, and by R38 no state
  reached from reset raises it (log entry 7). -/
  | misalignedRead
  deriving DecidableEq, Repr

/-- Why a step can be refused. -/
inductive Refusal where
  /-- Raised by `exec` for an instruction without a meaning; this model has none. Safe. -/
  | notModelled (mnemonic : String)
  /-- Raised by `hostAccess` for an access R150 does not admit: it changes no state of the block and "is a refusal
  with no meaning". Safe. -/
  | accessNotAdmitted
  deriving DecidableEq, Repr

/-- STATUS after reset: 0, all fields 0 (R22, R250). -/
def Status.reset : Status := ⟨false, false, false, false, .none⟩

/-- Every register after reset: 0 (R250). -/
def Regs.reset : Regs := ⟨Status.reset, 0, 0, 0, 0, 0, 0, 0, 0, 0⟩

/-- The platform State.reset sits in. DESIGN CHOICE (log entries 1 and 2): R5 leaves both parameters OPEN. -/
def Platform.reset : Platform := ⟨Config.resetBlockBase, [⟨0, Config.memSpace⟩]⟩

/-- The machine right after power-up, which equals reset (R250): every register 0, no cell of memory listed, no turn
pending and nothing on the ports. -/
def State.reset : State := ⟨Regs.reset, Platform.reset, [], [], none, []⟩

end Sys2Proof.Machine
end

