-- ==== Sys2Proof/Machine/Flags.lean ====
section
/-! DEFINITION. STATUS: its layout as a 64-bit word (10_state.md R22), the cause codes (60_exceptions.md R201) and the
updates of its fields. The block has no other flag (R41). -/

namespace Sys2Proof.Machine

/-- The code of a cause as CAUSE holds it (R201). -/
def causeCode : Cause → BitVec 4
  | .none => 0
  | .illegalCmd => 1
  | .negK => 2
  | .misaligned => 3
  | .busError => 4

/-- STATUS as the host reads it (R22): BUSY, DONE, ERR, OVR in bits 0 to 3, CAUSE in bits 11:8, all else 0. -/
def statusWord (st : Status) : Word :=
  BitVec.ofNat 64
    (st.busy.toNat + 2 * st.done.toNat + 4 * st.err.toNat + 8 * st.ovr.toNat + 256 * (causeCode st.cause).toNat)

/-- `reg[STATUS].BUSY <- b` (R23). -/
def Status.setBusy (st : Status) (b : Bool) : Status := { st with busy := b }

/-- `reg[STATUS].DONE <- b` (R24). -/
def Status.setDone (st : Status) (b : Bool) : Status := { st with done := b }

/-- `reg[STATUS].ERR <- b` (R25). -/
def Status.setErr (st : Status) (b : Bool) : Status := { st with err := b }

/-- `reg[STATUS].OVR <- b` (R26). -/
def Status.setOvr (st : Status) (b : Bool) : Status := { st with ovr := b }

/-- `reg[STATUS].CAUSE <- c` (R27). -/
def Status.setCause (st : Status) (c : Cause) : Status := { st with cause := c }

end Sys2Proof.Machine
end

