-- ==== Sys2Proof/Machine/Operands.lean ====
section
/-! DEFINITION. The datapath functions of 40_datapath.md and the operand readings of 10_state.md R30 and
20_memory.md R56: pure functions on words and numbers. -/

namespace Sys2Proof.Machine

/-- `sint64(v)`, the two's complement reading of a word (00_scope.md R7). -/
def sint64 (v : Word) : Int := if v.getLsbD 63 then (v.toNat : Int) - 2 ^ 64 else (v.toNat : Int)

/-- `XOR64(a, b)` (R100): bit `j` is 1 exactly when bits `j` of `a` and `b` differ. -/
def xor64 (a b : Word) : Word := a ^^^ b

/-- `POPCOUNT64(v)` (R101): the sum of the 64 bits of `v`. -/
def popcount64 (v : Word) : Nat := ((List.range 64).map fun j => (v.getLsbD j).toNat).sum

/-- `PXA(a, b)` (R102): the popcount of the XOR, all 64 bits taking part (R106). -/
def pxa (a b : Word) : Nat := popcount64 (xor64 a b)

/-- `ACCUMULATE(acc, a, b)` (R103): the sum modulo 2^64, without a flag. -/
def accumulate (acc a b : Word) : Word := BitVec.ofNat 64 (acc.toNat + pxa a b)

/-- `NITER(k)` (R104) in the form that never overflows: `k div 64`, and one more when `k mod 64` is not 0. -/
def niterOf (k : Nat) : Nat := k / 64 + (if k % 64 ≠ 0 then 1 else 0)

/-- `HD(x, y, k)` (R2, R105) of two buffers given by their words. -/
def hd (xw yw : Nat → Word) (k : Nat) : Nat := ((List.range (niterOf k)).map fun i => pxa (xw i) (yw i)).sum

/-- The address of word `i` of a buffer at `base`, modulo 2^64 (R56). -/
def wordAddr (base : Word) (i : Nat) : Word := BitVec.ofNat 64 (base.toNat + 8 * i)

/-- `addr_x(i)` (R56). -/
def addrX (r : Regs) (i : Nat) : Word := wordAddr r.xBase i

/-- `addr_y(i)` (R56). -/
def addrY (r : Regs) (i : Nat) : Word := wordAddr r.yBase i

/-- A byte address that is a multiple of 8 (R50, R55). -/
def aligned8 (a : Word) : Bool := a.toNat % 8 == 0

end Sys2Proof.Machine
end

