-- ==== Sys2Proof/Machine/Ops.lean ====
section
/-! DEFINITION. The named operations over the registers, the memory and the two ports: single updates, the memory of
the platform (20_memory.md R51, R52, R60), the memory port's read, recording an error (60_exceptions.md R206), the
status reset (41_commands.md R121), the busy rule (R120, 42_register_access.md R154) and reset (R250). -/

namespace Sys2Proof.Machine

/-- `reg[STATUS] <- v` (00_scope.md R9). -/
def Regs.setStatus (r : Regs) (v : Status) : Regs := { r with status := v }

/-- `reg[X_BASE] <- v` (00_scope.md R9). -/
def Regs.setXBase (r : Regs) (v : Word) : Regs := { r with xBase := v }

/-- `reg[Y_BASE] <- v` (00_scope.md R9). -/
def Regs.setYBase (r : Regs) (v : Word) : Regs := { r with yBase := v }

/-- `reg[K] <- v` (00_scope.md R9). -/
def Regs.setK (r : Regs) (v : Word) : Regs := { r with k := v }

/-- `reg[ACC] <- v` (00_scope.md R9). -/
def Regs.setAcc (r : Regs) (v : Word) : Regs := { r with acc := v }

/-- `reg[OPA] <- v` (00_scope.md R9). -/
def Regs.setOpa (r : Regs) (v : Word) : Regs := { r with opa := v }

/-- `reg[OPB] <- v` (00_scope.md R9). -/
def Regs.setOpb (r : Regs) (v : Word) : Regs := { r with opb := v }

/-- `reg[NITER] <- v` (00_scope.md R9). -/
def Regs.setNiter (r : Regs) (v : Word) : Regs := { r with niter := v }

/-- `reg[IDX] <- v` (00_scope.md R9). -/
def Regs.setIdx (r : Regs) (v : Word) : Regs := { r with idx := v }

/-- `reg[FAULT_INFO] <- v` (00_scope.md R9). -/
def Regs.setFaultInfo (r : Regs) (v : Word) : Regs := { r with faultInfo := v }

/-- Replaces the block registers. -/
def State.setRegs (s : State) (v : Regs) : State := { s with regs := v }

/-- Replaces the platform's memory. -/
def State.setMem (s : State) (v : Memory) : State := { s with mem := v }

/-- Replaces the turns still to be taken. -/
def State.setPending (s : State) (v : List Event) : State := { s with pending := v }

/-- Replaces the register port's answer. -/
def State.setReply (s : State) (v : Option Word) : State := { s with reply := v }

/-- Replaces the memory port's reads. -/
def State.setReads (s : State) (v : List Word) : State := { s with reads := v }

/-- The byte the platform's memory holds at a byte address (`MemBytes`, R51). -/
def memGet : Memory → Nat → Byte
  | [], _ => Config.unwritten
  | (a', b') :: m, a => if a = a' then b' else memGet m a

/-- The memory with byte `b` at address `a`, in the canonical form (`Memory.wf`): a cell that would hold
`Config.unwritten` is left out. -/
def memSet : Memory → Nat → Byte → Memory
  | [], a, b => if b = Config.unwritten then [] else [(a, b)]
  | (a', b') :: m, a, b =>
    if a < a' then (if b = Config.unwritten then (a', b') :: m else (a, b) :: (a', b') :: m)
    else if a = a' then (if b = Config.unwritten then m else (a, b) :: m)
    else (a', b') :: memSet m a b

/-- Every cell lies at `lo` or above, below the end of the memory space, strictly above the cell before it, and holds
another byte than an unlisted address reads as. -/
def memWfFrom : Nat → Memory → Bool
  | _, [] => true
  | lo, (a, b) :: m => decide (lo ≤ a) && decide (a < Config.memSpace) && decide (b ≠ Config.unwritten) && memWfFrom (a + 1) m

/-- The canonical form of a memory: equal contents are equal lists. -/
def Memory.wf (m : Memory) : Bool := memWfFrom 0 m

/-- Writes the bytes in rising order from address `a`, addresses modulo 2^64. -/
def memSetBytes : List Byte → Memory → Word → Memory
  | [], m, _ => m
  | b :: bs, m, a => memSetBytes bs (memSet m a.toNat b) (a + 1)

/-- The memory after a write of the platform's memory by an agent other than the block (R6, R60). -/
def landWrite (m : Memory) (w : MemWrite) : Memory := memSetBytes w.bytes m w.addr

/-- The memory after several such writes, the first one first. -/
def landWrites (m : Memory) (ws : List MemWrite) : Memory := ws.foldl landWrite m

/-- The little-endian value of a list of bytes, the first one least significant (R52). -/
def leValue : List Byte → Nat
  | [] => 0
  | b :: bs => b.toNat + 256 * leValue bs

/-- The word the memory holds at `a`: the sum over `j < 8` of the byte at `(a + j) mod 2^64` times `2^(8j)` (R51). -/
def memWord (m : Memory) (a : Word) : Word :=
  BitVec.ofNat 64 (leValue ((List.range 8).map fun j => memGet m (a + BitVec.ofNat 64 j).toNat))

/-- `xw(i)` of R9 and R56, as the memory stands now. -/
def wordX (s : State) (i : Nat) : Word := memWord s.mem (addrX s.regs i)

/-- `yw(i)` of R9 and R56, as the memory stands now. -/
def wordY (s : State) (i : Nat) : Word := memWord s.mem (addrY s.regs i)

/-- An address lies in a range of the platform. -/
def Region.holds (g : Region) (a : Word) : Bool := decide (g.base ≤ a.toNat) && decide (a.toNat < g.base + g.size)

/-- One of the 8 bytes at `a` lies in the block's own register window (R59). -/
def overlapsWindow (p : Platform) (a : Word) : Bool :=
  (List.range 8).any fun j =>
    decide (p.blockBase ≤ a.toNat + j) && decide (a.toNat + j < p.blockBase + Config.regWindow)

/-- `MemAdmit(a)` (R5, R51): the platform answers the read, and it is not of the block's own window (R59). -/
def memAdmit (p : Platform) (a : Word) : Bool := (p.admits.any fun g => g.holds a) && !overlapsWindow p a

/-- What one read of the memory port comes back with (R51). -/
inductive MemReply where
  /-- The 64-bit word. -/
  | word (v : Word)
  /-- The marker `BusErr`. -/
  | busErr
  /-- The address is no multiple of 8, where R51 gives `MemRead` no meaning. -/
  | noMeaning
  deriving DecidableEq, Repr

/-- `MemRead(a, 8)` (R51). -/
def memRead (s : State) (a : Word) : MemReply :=
  if aligned8 a then (if memAdmit s.platform a then .word (memWord s.mem a) else .busErr) else .noMeaning

/-- `StatusReset()` (R121): OVR and BUSY stay. -/
def statusReset (r : Regs) : Regs :=
  (r.setStatus (((r.status.setDone false).setErr false).setCause .none)).setFaultInfo 0

/-- `raise Error(cause, info)` (R206), the recording of an error: BUSY and DONE become 0, ERR 1, CAUSE and FAULT_INFO
name it; nothing else changes. -/
def raiseError (c : Cause) (info : Word) (r : Regs) : Regs :=
  (r.setStatus ((((r.status.setBusy false).setDone false).setErr true).setCause c)).setFaultInfo info

/-- `reg[STATUS].DONE <- 1`. -/
def markDone (r : Regs) : Regs := r.setStatus (r.status.setDone true)

/-- A host write dropped because BUSY is 1: OVR becomes 1, nothing else changes (R120, R154). -/
def dropWrite (r : Regs) : Regs := r.setStatus (r.status.setOvr true)

/-- A write that takes effect only while BUSY is 0 and is dropped otherwise (R120, R154). -/
def unlessBusy (act : Regs → Regs) (r : Regs) : Regs := if r.status.busy then dropWrite r else act r

/-- The handling of a CMD write whose accepted effect is `act`, one atomic step (R120, R129). -/
def acceptCommand (act : Regs → Regs) (s : State) : Host.Outcome State Fault Refusal :=
  .next (s.setRegs (unlessBusy act s.regs))

/-- Reset (R250): every register 0; the memory and the platform are not touched. -/
def resetBlock (s : State) : State := s.setRegs Regs.reset

/-- A step begins: nothing is on the two ports yet. -/
def clearPorts (s : State) : State := (s.setReply none).setReads []

/-- The memory port issues a read of address `a`. -/
def noteRead (a : Word) (s : State) : State := s.setReads (s.reads ++ [a])

end Sys2Proof.Machine
end

