-- ==== Sys2Proof/Machine/Engine.lean ====
section
/-! DEFINITION. The engine agent: the RUN engine step of 41_commands.md R126, one word pair in one atomic step with two
read events, x before y. -/

namespace Sys2Proof.Machine

/-- The effect of a bus error at address `a` (R126, R205): ACC becomes 0 and the error is recorded; IDX stays. -/
def engineBusError (a : Word) (r : Regs) : Regs := raiseError .busError a (r.setAcc 0)

/-- STATUS after a word pair: on the last word BUSY becomes 0 and DONE 1 (R126, R127). -/
def pairStatus (r : Regs) : Status :=
  if r.idx.toNat + 1 = r.niter.toNat then (r.status.setBusy false).setDone true else r.status

/-- The effect of a word pair read well (R126): accumulate, advance IDX, and end the run on the last word. -/
def enginePair (vx vy : Word) (r : Regs) : Regs :=
  ((r.setAcc (accumulate r.acc vx vy)).setIdx (BitVec.ofNat 64 (r.idx.toNat + 1))).setStatus (pairStatus r)

/-- The rest of an engine step after its x read gave `vx`: the read of `addr_y(i) = ay`, and the end of the step (R126). -/
def engineReadY (ay vx : Word) (s : State) : Host.Outcome State Fault Refusal :=
  match memRead s ay with
  | .word vy => .next (noteRead ay (s.setRegs (enginePair vx vy s.regs)))
  | .busErr => .next (noteRead ay (s.setRegs (engineBusError ay s.regs)))
  | .noMeaning => .fault .misalignedRead

/-- The x read is over: its address stands on the port, and the writes `between` of other agents have landed. -/
def afterReadX (ax : Word) (between : List MemWrite) (s : State) : State :=
  noteRead ax (s.setMem (landWrites s.mem between))

/-- The RUN engine step on word pair `i`, the x read first (R126). The writes `between` of other agents land after the
x read and before the y read; after a refused x read there is no y read. -/
def enginePairStep (between : List MemWrite) (i : Nat) (s : State) : Host.Outcome State Fault Refusal :=
  match memRead s (addrX s.regs i) with
  | .word vx => engineReadY (addrY s.regs i) vx (afterReadX (addrX s.regs i) between s)
  | .busErr =>
    .next ((afterReadX (addrX s.regs i) between s).setRegs (engineBusError (addrX s.regs i) s.regs))
  | .noMeaning => .fault .misalignedRead

/-- The RUN engine step, on word pair IDX, for a state with BUSY = 1 (R126). -/
def engineStep (between : List MemWrite) (s : State) : Host.Outcome State Fault Refusal :=
  enginePairStep between s.regs.idx.toNat s

/-- The engine's turn: its step when BUSY = 1; with BUSY = 0 no step is enabled and the block does nothing (R126, R217),
while the other agents' writes still land. -/
def engineTurn (between : List MemWrite) (s : State) : Host.Outcome State Fault Refusal :=
  if s.regs.status.busy then engineStep between s else .next (s.setMem (landWrites s.mem between))

end Sys2Proof.Machine
end

