-- ==== Sys2Proof/WellFormed.lean ====
section
/-! DEFINITION. Which command words and which instructions are well formed (30_encoding.md R71, R73, R74). -/

namespace Sys2Proof

/-- RSV, bits 63:4 of a command word, is zero (R71: "reserved; must be zero"). -/
def wordReservedZero (c : Word) : Bool := c.toNat / 16 == 0

/-- OP, bits 3:0 of a command word, is one of the four values of R73. -/
def wordOpKnown (c : Word) : Bool := c.toNat % 16 < 4

/-- A command word the opcode map of R73 gives a command. -/
def wordWf (c : Word) : Bool := wordReservedZero c && wordOpKnown c

/-- Every instruction is well formed: no command has an operand field (R72), so there is nothing to check. -/
def Instr.wf : Instr → Bool
  | .nop => true
  | .clear => true
  | .step => true
  | .run => true

end Sys2Proof
end

