-- ==== Sys2Proof/Decode.lean ====
section
/-! DEFINITION. Decoding and encoding of command words (30_encoding.md R70 to R75). A command is one 64-bit word; the
decoder is total on all of them and answers `Illegal(c)` by name. -/

namespace Sys2Proof

/-- OP, bits 3:0 of a command word (R71). -/
def opField (c : Word) : BitVec 4 := c.extractLsb' 0 4

/-- RSV, bits 63:4 of a command word (R71). -/
def rsvField (c : Word) : BitVec 60 := c.extractLsb' 4 60

/-- `Decode(c)` of R75, for every 64-bit word `c`. -/
def decode (c : Word) : Decoded :=
  if rsvField c ≠ 0 then .illegal c
  else if opField c = 0x0 then .command .nop
  else if opField c = 0x1 then .command .clear
  else if opField c = 0x2 then .command .step
  else if opField c = 0x3 then .command .run
  else .illegal c

/-- The command word of an instruction (R73). -/
def encode : Instr → Word
  | .nop => 0x0000000000000000
  | .clear => 0x0000000000000001
  | .step => 0x0000000000000002
  | .run => 0x0000000000000003

/-- The instruction the decoder reads from the command whose low `nbits` bits are those of `w` and whose other bits
are zero. A command is one 64-bit register write (R70), so no byte order enters; a number that does not fit the
64-bit word is no command. -/
def decodeTableWord (nbits w : Nat) : Option Instr :=
  if 2 ^ 64 ≤ w % 2 ^ nbits then none
  else
    match decode (BitVec.ofNat 64 (w % 2 ^ nbits)) with
    | .command i => some i
    | .illegal _ => none

end Sys2Proof
end

