-- ==== Sys2Proof/Machine/Commands.lean ====
section
/-! DEFINITION. The meanings of the four commands and of an illegal command word (41_commands.md R122 to R125, R128):
the effect of one host write of the command's word to CMD, which R120 drops while BUSY is 1. -/

namespace Sys2Proof.Machine

/-- NOP (R122): an accepted NOP changes nothing at all. -/
def execNop (s : State) : Host.Outcome State Fault Refusal := acceptCommand (fun r => r) s

/-- An accepted CLEAR (R123). -/
def clearRegs (r : Regs) : Regs :=
  let r := statusReset r
  let r := ((r.setAcc 0).setNiter 0).setIdx 0
  markDone (r.setStatus (r.status.setOvr false))

/-- CLEAR (R123). -/
def execClear (s : State) : Host.Outcome State Fault Refusal := acceptCommand clearRegs s

/-- An accepted STEP (R124). -/
def stepRegs (r : Regs) : Regs :=
  let r := statusReset r
  markDone (r.setAcc (accumulate r.acc r.opa r.opb))

/-- STEP (R124). -/
def execStep (s : State) : Host.Outcome State Fault Refusal := acceptCommand stepRegs s

/-- The part of an accepted RUN after its sign check, for `k = sint64(reg[K])` that is not negative (R125): the word
count, the empty run, the alignment of X_BASE before that of Y_BASE, and the start of the engine. -/
def runCounted (k : Nat) (r : Regs) : Regs :=
  let r := r.setNiter (BitVec.ofNat 64 (niterOf k))
  if niterOf k = 0 then markDone r
  else if !aligned8 r.xBase then raiseError .misaligned r.xBase r
  else if !aligned8 r.yBase then raiseError .misaligned r.yBase r
  else r.setStatus (r.status.setBusy true)

/-- An accepted RUN, the acceptance phase (R125). -/
def runRegs (r : Regs) : Regs :=
  let r := (((statusReset r).setAcc 0).setIdx 0).setNiter 0
  if sint64 r.k < 0 then raiseError .negK r.k r else runCounted (sint64 r.k).toNat r

/-- RUN (R125); the engine steps that follow are `engineStep` (R126). -/
def execRun (s : State) : Host.Outcome State Fault Refusal := acceptCommand runRegs s

/-- An accepted illegal command word (R128, R202). -/
def illegalRegs (c : Word) (r : Regs) : Regs := raiseError .illegalCmd c (statusReset r)

/-- A CMD write of an illegal word (R74, R128). -/
def execIllegal (c : Word) (s : State) : Host.Outcome State Fault Refusal := acceptCommand (illegalRegs c) s

end Sys2Proof.Machine
end

