-- ==== Sys2Proof/Machine/Port.lean ====
section
/-! DEFINITION. The register port: which host accesses are admitted and what each read and write does
(42_register_access.md R150 to R158, 10_state.md R20). -/

namespace Sys2Proof.Machine

/-- The offset of a register in the window (R20). -/
def RegName.offset : RegName → Nat
  | .cmd => 0x00
  | .status => 0x08
  | .xBase => 0x10
  | .yBase => 0x18
  | .k => 0x20
  | .acc => 0x28
  | .opa => 0x30
  | .opb => 0x38
  | .niter => 0x40
  | .idx => 0x48
  | .faultInfo => 0x50

/-- The register at an admitted offset; the reserved offsets 0x58 to 0x78 name none (R20, R37). -/
def regAt (off : Nat) : Option RegName :=
  if off = 0x00 then some .cmd
  else if off = 0x08 then some .status
  else if off = 0x10 then some .xBase
  else if off = 0x18 then some .yBase
  else if off = 0x20 then some .k
  else if off = 0x28 then some .acc
  else if off = 0x30 then some .opa
  else if off = 0x38 then some .opb
  else if off = 0x40 then some .niter
  else if off = 0x48 then some .idx
  else if off = 0x50 then some .faultInfo
  else none

/-- The offset of a host access of `width` bits at host address `addr`, when R150 admits it. -/
def accessOffset (p : Platform) (width addr : Nat) : Option Nat :=
  if width = Config.wordBits ∧ p.blockBase ≤ addr ∧ (addr - p.blockBase) % 8 = 0 ∧
      addr - p.blockBase < Config.regWindow then
    some (addr - p.blockBase)
  else none

/-- What an admitted host read returns (R151, R152, R157). -/
def portRead (slot : Option RegName) (r : Regs) : Word :=
  match slot with
  | some .cmd => 0
  | some .status => statusWord r.status
  | some .xBase => r.xBase
  | some .yBase => r.yBase
  | some .k => r.k
  | some .acc => r.acc
  | some .opa => r.opa
  | some .opb => r.opb
  | some .niter => r.niter
  | some .idx => r.idx
  | some .faultInfo => r.faultInfo
  | none => 0

/-- A host write of `c` to CMD (R120, R153): the word is decoded and its command carried out. Each meaning drops the
write itself while BUSY is 1, so that no command word has an effect then. -/
def commandWrite (c : Word) (s : State) : Host.Outcome State Fault Refusal :=
  match decode c with
  | .command i => exec i s
  | .illegal c => execIllegal c s

/-- What an admitted host write does: a command (R153), an operand of a run (R154), an operand of STEP (R155), a
read-only register (R156) or a reserved offset (R157). -/
def portWrite (slot : Option RegName) (v : Word) (s : State) : Host.Outcome State Fault Refusal :=
  match slot with
  | some .cmd => commandWrite v s
  | some .xBase => .next (s.setRegs (unlessBusy (fun r => r.setXBase v) s.regs))
  | some .yBase => .next (s.setRegs (unlessBusy (fun r => r.setYBase v) s.regs))
  | some .k => .next (s.setRegs (unlessBusy (fun r => r.setK v) s.regs))
  | some .opa => .next (s.setRegs (s.regs.setOpa v))
  | some .opb => .next (s.setRegs (s.regs.setOpb v))
  | some .status => .next s
  | some .acc => .next s
  | some .niter => .next s
  | some .idx => .next s
  | some .faultInfo => .next s
  | none => .next s

/-- One host access on the register port, one atomic step (R150, R158). -/
def hostAccess (a : HostAccess) (s : State) : Host.Outcome State Fault Refusal :=
  match a with
  | .read width addr =>
    match accessOffset s.platform width addr with
    | some off => .next (s.setReply (some (portRead (regAt off) s.regs)))
    | none => .refused .accessNotAdmitted
  | .write width addr v =>
    match accessOffset s.platform width addr with
    | some off => portWrite (regAt off) v s
    | none => .refused .accessNotAdmitted

end Sys2Proof.Machine
end

