-- ==== Sys2Proof/Machine/Turns.lean ====
section
/-! DEFINITION. Which agent moves, and its move (00_scope.md R6, 41_commands.md R129, 70_reset_and_hazards.md R250, R261). -/

namespace Sys2Proof.Machine

/-- One turn of one agent. -/
def takeEvent (e : Event) (s : State) : Host.Outcome State Fault Refusal :=
  match e with
  | .host a => hostAccess a s
  | .engine between => engineTurn between s
  | .memory w => .next (s.setMem (landWrite s.mem w))
  | .reset => .next (resetBlock s)

/-- The next turn: the first pending one; with none pending the engine's, so that every run ends (R261, R262) and an
idle block rests (R217, R251). -/
def takeTurn (s : State) : Host.Outcome State Fault Refusal :=
  match s.pending with
  | [] => engineTurn [] (clearPorts s)
  | e :: rest => takeEvent e ((clearPorts s).setPending rest)

/-- The host write of command word `c` to CMD (R153). -/
def cmdWrite (p : Platform) (c : Word) : Event :=
  .host (.write Config.wordBits (p.blockBase + RegName.cmd.offset) c)

/-- The state whose next turn is a host write of the command whose low `nbits` bits are those of `w`. -/
def offerCommand (s : State) (nbits w : Nat) : State :=
  s.setPending (cmdWrite s.platform (BitVec.ofNat 64 (w % 2 ^ nbits)) :: s.pending)

end Sys2Proof.Machine
end

