-- ==== Sys2Proof/Machine/Step.lean ====
section
/-! DEFINITION. The step of the machine, and how a command is placed where the next step takes it from. -/

namespace Sys2Proof.Machine

/-- One step: one atomic step of one agent (R129, R158). -/
def step (s : State) : Host.Outcome State Fault Refusal := takeTurn s

/-- `s` with a host write of the instruction's word to CMD as its next turn: the block has no program counter and no
instruction memory (R40, R63), a command arrives only as a write to CMD. -/
def State.withFetchWord (s : State) (nbits w : Nat) : State := offerCommand s nbits w

end Sys2Proof.Machine
end

