-- ==== Sys2Proof/Machine/Script.lean ====
section
/-! DEFINITION. The host script notation of 30_encoding.md R76 and its pseudo-instructions (R77). It is host software
and no part of the block: a script is turned into host accesses that `State.pending` can hold. -/

namespace Sys2Proof.Machine

/-- One line of a host script (R76). -/
inductive ScriptLine where
  /-- `WR <reg>, <value>`. -/
  | wr (reg : RegName) (value : Word)
  /-- `RD <reg>`. -/
  | rd (reg : RegName)
  /-- `CMD <mnemonic>`, short for `WR CMD, <word>`. -/
  | cmd (i : Instr)
  /-- `MEM <addr>: <value>`, a content of the memory before the script and no transaction. -/
  | mem (addr value : Word)
  deriving DecidableEq, Repr

/-- The (offset, data) pair of a line; a read has no data, a `MEM` line no pair (R76). -/
def lineEncoding : ScriptLine → Option (Nat × Option Word)
  | .wr reg v => some (reg.offset, some v)
  | .rd reg => some (reg.offset, none)
  | .cmd i => some (RegName.cmd.offset, some (encode i))
  | .mem _ _ => none

/-- The encoding of a script: the pairs of its lines, in order (R76). -/
def scriptEncoding (ls : List ScriptLine) : List (Nat × Option Word) := ls.filterMap lineEncoding

/-- The host access an (offset, data) pair stands for on a platform. -/
def pairEvent (p : Platform) (x : Nat × Option Word) : Event :=
  match x.2 with
  | some v => .host (.write Config.wordBits (p.blockBase + x.1) v)
  | none => .host (.read Config.wordBits (p.blockBase + x.1))

/-- The host accesses of a script on a platform, in order. -/
def scriptEvents (p : Platform) (ls : List ScriptLine) : List Event := (scriptEncoding ls).map (pairEvent p)

/-- The 8 bytes of a word, little-endian (R52, R76). -/
def wordBytes (v : Word) : List Byte := (List.range 8).map fun j => v.extractLsb' (8 * j) 8

/-- The memory before a script, its `MEM` lines placed (R76). -/
def scriptMemory (m : Memory) (ls : List ScriptLine) : Memory :=
  ls.foldl (fun m l => match l with
    | .mem a v => memSetBytes (wordBytes v) m a
    | .wr _ _ => m
    | .rd _ => m
    | .cmd _ => m) m

/-- `s` with a script's `MEM` lines placed and its accesses after the turns already pending. -/
def loadScript (s : State) (ls : List ScriptLine) : State :=
  (s.setMem (scriptMemory s.mem ls)).setPending (s.pending ++ scriptEvents s.platform ls)

/-- `WAIT` (R77) when its loop goes round `polls` times: so many reads of STATUS (log entry 17). -/
def waitLines (polls : Nat) : List ScriptLine := List.replicate polls (.rd .status)

/-- The values the reads of a `WAIT` returned: it ends at the first one with BUSY = 0, and not before (R77). -/
def waitEnds : List Word → Bool
  | [] => false
  | [s] => !s.getLsbD 0
  | s :: rest => s.getLsbD 0 && waitEnds rest

/-- `HAMMING <xb>, <yb>, <k>` up to and with its `CMD RUN` (R77). -/
def hammingStart (xb yb k : Word) : List ScriptLine := [.wr .xBase xb, .wr .yBase yb, .wr .k k, .cmd .run]

/-- `HAMMING <xb>, <yb>, <k>` in full, its `WAIT` going round `polls` times (R77). -/
def hammingLines (xb yb k : Word) (polls : Nat) : List ScriptLine :=
  hammingStart xb yb k ++ waitLines polls ++ [.rd .status, .rd .acc]

/-- What `HAMMING` answers (R77). -/
inductive HammingResult where
  | distance (r : Word)
  | error (cause : BitVec 4)
  deriving DecidableEq, Repr

/-- The result of `HAMMING` from the STATUS and ACC its last two reads returned (R77); R77 names none when neither
ERR nor DONE is set. -/
def hammingResult (s r : Word) : Option HammingResult :=
  if s.getLsbD 2 then some (.error (s.extractLsb' 8 4))
  else if s.getLsbD 1 then some (.distance r)
  else none

end Sys2Proof.Machine
end

