-- ==== Sys2Proof/Safety.lean ====
section
/-! DEFINITION. What the statements about runs are made of: the invariants of 10_state.md R38 and the derived facts of
R24, R27, R34 and R127; which bytes a turn writes and which a run reads; and the partial sum of a run. -/

namespace Sys2Proof.Machine

/-- What holds of the registers while a run is in progress (R38, R127). -/
structure RunInv (r : Regs) : Prop where
  /-- There is a word pair still to process. -/
  idx_lt : r.idx.toNat < r.niter.toNat
  /-- Neither completion nor an error is reported. -/
  not_done : r.status.done = false
  not_err : r.status.err = false
  /-- Both bases are multiples of 8. -/
  x_aligned : aligned8 r.xBase = true
  y_aligned : aligned8 r.yBase = true
  /-- The partial sum is at most 64 for each word pair done. -/
  acc_le : r.acc.toNat ≤ 64 * r.idx.toNat
  /-- NITER is the word count of K, which is not negative and cannot change during the run (R34, R154). -/
  k_nonneg : 0 ≤ sint64 r.k
  niter_eq : r.niter.toNat = niterOf (sint64 r.k).toNat

/-- The invariants of the block's registers (R24, R27, R34, R36, R38). -/
structure RegsInv (r : Regs) : Prop where
  /-- NITER is in `[0, 2^57]` (R34). -/
  niter_le : r.niter.toNat ≤ 2 ^ 57
  /-- IDX never passes NITER (R38). -/
  idx_le : r.idx.toNat ≤ r.niter.toNat
  /-- DONE and ERR never hold together (R24). -/
  done_err : ¬ (r.status.done = true ∧ r.status.err = true)
  /-- CAUSE is 0 exactly when ERR is 0 (R27). -/
  cause_iff : r.status.cause = .none ↔ r.status.err = false
  /-- FAULT_INFO is 0 unless an error is recorded (R36, R201). -/
  info_zero : r.status.err = false → r.faultInfo = 0
  /-- While BUSY = 1 a run is in progress (R38). -/
  run : r.status.busy = true → RunInv r

/-- The invariant of the machine: that of the registers, and the canonical form of the memory. -/
structure MachineInv (s : State) : Prop where
  regs : RegsInv s.regs
  mem : s.mem.wf = true

/-- A step that stops with a fault. -/
def stopsWithFault (o : Host.Outcome State Fault Refusal) : Bool :=
  match o with
  | .fault _ => true
  | .next _ => false
  | .refused _ => false

/-- `n` steps of the machine, stopping at the first fault or refusal. -/
def runSteps (n : Nat) (s : State) : Host.Outcome State Fault Refusal := core.run n s

/-- The write covers a byte address. -/
def MemWrite.covers (w : MemWrite) (a : Word) : Bool :=
  (List.range w.bytes.length).any fun j => w.addr + BitVec.ofNat 64 j == a

/-- The memory writes of other agents that land in a turn. -/
def eventWrites : Event → List MemWrite
  | .host _ => []
  | .engine between => between
  | .memory w => [w]
  | .reset => []

/-- The memory writes of other agents that land in the next step. -/
def turnWrites (s : State) : List MemWrite :=
  match s.pending with
  | [] => []
  | e :: _ => eventWrites e

/-- The turns left after the next step. -/
def laterTurns (s : State) : List Event :=
  match s.pending with
  | [] => []
  | _ :: rest => rest

/-- The next turn is `e`. -/
def turnIs (s : State) (e : Event) : Prop := s.pending.head? = some e

/-- The next turn is the engine's: its own turn, or no turn is pending at all. -/
def turnIsEngine (s : State) : Prop := s.pending = [] ∨ ∃ between, turnIs s (.engine between)

/-- A 64-bit host write of `v` at offset `off` of the register window (R150). -/
def writeAt (p : Platform) (off : Nat) (v : Word) : Event := .host (.write 64 (p.blockBase + off) v)

/-- A 64-bit host read at offset `off` of the register window (R150). -/
def readAt (p : Platform) (off : Nat) : Event := .host (.read 64 (p.blockBase + off))

/-- The next turn is a CMD write that is accepted and replaces what STATUS, FAULT_INFO, ACC, NITER and IDX report: any
but a NOP (R121, R259). -/
def turnReplacesStatus (s : State) : Prop :=
  s.regs.status.busy = false ∧ ∃ c, turnIs s (cmdWrite s.platform c) ∧ decode c ≠ .command .nop

/-- A byte of one of the buffer words of the run the registers describe (R257). -/
def inBuffers (r : Regs) (a : Word) : Prop :=
  ∃ i < r.niter.toNat, ∃ j < 8, a = addrX r i + BitVec.ofNat 64 j ∨ a = addrY r i + BitVec.ofNat 64 j

/-- No agent writes a buffer word in the next step: the caller's duty of R257. -/
def sparesBuffers (s : State) : Prop := ∀ w ∈ turnWrites s, ∀ a, w.covers a = true → ¬ inBuffers s.regs a

/-- The sum over the word pairs a run has completed, as the memory stands now. -/
def partialSum (s : State) : Nat := ((List.range s.regs.idx.toNat).map fun i => pxa (wordX s i) (wordY s i)).sum

/-- The platform answers every read of a run over `n` word pairs (R130). -/
def admitsRun (s : State) (n : Nat) : Prop :=
  ∀ i < n, memAdmit s.platform (addrX s.regs i) = true ∧ memAdmit s.platform (addrY s.regs i) = true

end Sys2Proof.Machine
end

