-- ==== Sys2Proof/Certificates/Slice0/Obligations.lean ====
section
/-! DEFINITION. The statements for the provers. A `step` statement names the whole next state: `pending` loses the turn
taken, and `reply` and `reads` hold only what the step put on the two ports. -/

open Sys2Proof Sys2Proof.Machine

/-- 95_test_vectors.md section 3: the listed command words, among them the four of the opcode map, decode as listed. -/
def Obligations.ListedWordsDecodeAsListed : Prop :=
  decode 0x0000000000000000 = .command .nop ∧ decode 0x0000000000000001 = .command .clear ∧
  decode 0x0000000000000002 = .command .step ∧ decode 0x0000000000000003 = .command .run ∧
  decode 0x0000000000000004 = .illegal 0x0000000000000004 ∧ decode 0x000000000000000F = .illegal 0x000000000000000F ∧
  decode 0x0000000000000010 = .illegal 0x0000000000000010 ∧ decode 0x0000000000000013 = .illegal 0x0000000000000013 ∧
  decode 0x8000000000000003 = .illegal 0x8000000000000003 ∧ decode 0xFFFFFFFFFFFFFFFF = .illegal 0xFFFFFFFFFFFFFFFF

/-- R73: the command words, and a word matches an instruction exactly when `(c & mask) = match`. -/
def Obligations.DecodeMatchesExactlyTheEncodedWord : Prop :=
  (encode .nop = 0x0 ∧ encode .clear = 0x1 ∧ encode .step = 0x2 ∧ encode .run = 0x3) ∧
  ∀ (c : Word) (i : Instr), decode c = .command i ↔ c &&& 0xFFFFFFFFFFFFFFFF = encode i

/-- R75: `Decode` on each of the 2^64 words, its fields written as a quotient and a remainder of the word's number; and a
CMD write while BUSY = 1 is dropped, whatever the word decodes as. -/
def Obligations.DecodeIsTotal : Prop :=
  (∀ c : Word,
    if c.toNat / 16 ≠ 0 then decode c = .illegal c
    else if c.toNat % 16 = 0 then decode c = .command .nop
    else if c.toNat % 16 = 1 then decode c = .command .clear
    else if c.toNat % 16 = 2 then decode c = .command .step
    else if c.toNat % 16 = 3 then decode c = .command .run
    else decode c = .illegal c) ∧
  ∀ (s : State) (c : Word) (rest : List Event), s.pending = cmdWrite s.platform c :: rest →
    s.regs.status.busy = true →
    step s = .next { s with pending := rest, reply := none, reads := [],
                            regs := { s.regs with status := { s.regs.status with ovr := true } } }

/-- The table's numbering of a command's bits: the decoder reads instruction `i` from the low `nbits` bits of `w`
exactly when they are the word of `i` (the numbering is log entry 21's). -/
def Obligations.TableWordsDecodeExactlyWhenEncoded : Prop :=
  ∀ (nbits w : Nat) (i : Instr), decodeTableWord nbits w = some i ↔ w % 2 ^ nbits = (encode i).toNat

/-- R101: POPCOUNT64 is the number of set bits, in `[0, 64]`, with the corner cases and the example of the rule. -/
def Obligations.PopcountCountsTheSetBits : Prop :=
  (∀ v : Word, popcount64 v = (Finset.univ.filter fun j : Fin 64 => v.getLsbD j = true).card ∧ popcount64 v ≤ 64) ∧
  popcount64 0 = 0 ∧ popcount64 0xFFFFFFFFFFFFFFFF = 64 ∧ popcount64 0x8000000000000000 = 1 ∧ popcount64 0xC = 2

/-- R102, less its derived symmetry: PXA is the number of bit positions that differ, all 64 of them compared. -/
def Obligations.PxaCountsTheDifferingBits : Prop :=
  (∀ a b : Word,
    pxa a b = (Finset.univ.filter fun j : Fin 64 => a.getLsbD j ≠ b.getLsbD j).card ∧ pxa a b ≤ 64 ∧
    pxa a a = 0 ∧ pxa a (~~~a) = 64) ∧
  pxa 10 6 = 2

/-- R103: the sum modulo 2^64, with the corner cases of the rule; the bound on a RUN is `RunNeverWraps`. -/
def Obligations.AccumulateAddsModulo2To64 : Prop :=
  (∀ acc a b : Word, (accumulate acc a b).toNat = (acc.toNat + pxa a b) % 2 ^ 64 ∧ accumulate acc a a = acc) ∧
  accumulate 0xFFFFFFFFFFFFFFFF 0 1 = 0 ∧ accumulate 0xFFFFFFFFFFFFFFC0 0 0xFFFFFFFFFFFFFFFF = 0 ∧
  accumulate 5 10 6 = 7

/-- R104: NITER(k) is the least integer not below `k / 64`, equals its bit-field form, and is at most 2^57. -/
def Obligations.NiterIsTheCeilingOfKOver64 : Prop :=
  (∀ k < 2 ^ 63,
    k ≤ 64 * niterOf k ∧ (∀ n, k ≤ 64 * n → niterOf k ≤ n) ∧ niterOf k ≤ 2 ^ 57 ∧
    niterOf k = ((BitVec.ofNat 64 k).extractLsb' 6 57).toNat +
      (if (BitVec.ofNat 64 k).extractLsb' 0 6 ≠ 0 then 1 else 0)) ∧
  niterOf 0 = 0 ∧ niterOf 1 = 1 ∧ niterOf 63 = 1 ∧ niterOf 64 = 1 ∧ niterOf 65 = 2 ∧ niterOf 1000 = 16 ∧
  niterOf (2 ^ 63 - 1) = 2 ^ 57

/-- 00_scope.md R7: `sint64`, as the model computes it, is the number congruent to the word modulo 2^64 that lies in
`[-2^63, 2^63)`. -/
def Obligations.Sint64IsTwosComplement : Prop :=
  ∀ v : Word, -(2 ^ 63) ≤ sint64 v ∧ sint64 v < 2 ^ 63 ∧ ∃ z : Int, (v.toNat : Int) = sint64 v + 2 ^ 64 * z

/-- Laws 1, 2, 5 and 7 of HD, which the spec marks as derived (40_datapath.md, the laws of HD): zero on no words and on
equal buffers, symmetric, and subject to the triangle inequality. -/
def Obligations.HammingDistanceIsSymmetricAndObeysTheTriangleInequality : Prop :=
  ∀ (x y z : Nat → Word) (k : Nat),
    hd x y 0 = 0 ∧ hd x x k = 0 ∧ hd x y k = hd y x k ∧ hd x z k ≤ hd x y k + hd y z k

/-- Laws 3, 4 and 6 of HD, which the spec marks as derived: HD is a bit-by-bit count over all `64 * NITER(k)` bit
positions (so 1 where exactly one differs), and `64 * NITER(k)` on complements. -/
def Obligations.HammingDistanceIsABitByBitCount : Prop :=
  ∀ (x y : Nat → Word) (k : Nat),
    hd x y k = ((Finset.range (64 * niterOf k)).filter fun b =>
      (x (b / 64)).getLsbD (b % 64) ≠ (y (b / 64)).getLsbD (b % 64)).card ∧
    hd x (fun i => ~~~(x i)) k = 64 * niterOf k

/-- The spec's derived sentence on the unmasked final word (40_datapath.md, no masking): HD depends on `k` only through
NITER(k), and equals the HD of the whole words. -/
def Obligations.HammingDistanceComparesWholeWords : Prop :=
  ∀ (x y : Nat → Word) (k₁ k₂ : Nat),
    (niterOf k₁ = niterOf k₂ → hd x y k₁ = hd x y k₂) ∧ hd x y k₁ = hd x y (64 * niterOf k₁)

/-- The spec's derived statement that no count depends on the byte order (20_memory.md section 1): one permutation of
the 8 bytes of a word, applied to both operands, leaves PXA as it is. -/
def Obligations.CountIgnoresByteOrder : Prop :=
  ∀ (σ : Equiv.Perm (Fin 8)) (a b a' b' : Word),
    (∀ j : Fin 8, a'.extractLsb' (8 * j.val) 8 = a.extractLsb' (8 * (σ j).val) 8) →
    (∀ j : Fin 8, b'.extractLsb' (8 * j.val) 8 = b.extractLsb' (8 * (σ j).val) 8) →
    pxa a' b' = pxa a b

/-- R51: `MemRead` at an aligned address is `BusErr` where the platform refuses it, and else the sum of the 8 bytes,
byte `j` times `2^(8j)`. -/
def Obligations.MemReadSumsEightBytes : Prop :=
  ∀ (s : State) (a : Word), a.toNat % 8 = 0 →
    (memAdmit s.platform a = false → memRead s a = .busErr) ∧
    (memAdmit s.platform a = true → ∃ v, memRead s a = .word v ∧
      v.toNat = ∑ j ∈ Finset.range 8, (memGet s.mem (a.toNat + j)).toNat * 2 ^ (8 * j))

/-- R52: the byte at the lowest address is bits 7:0 of the word and the byte at `a + 7` bits 63:56; whatever else the
state holds. -/
def Obligations.WordsAreLittleEndian : Prop :=
  ∀ (s : State) (a v : Word), memRead s a = .word v →
    ∀ j < 8, v.extractLsb' (8 * j) 8 = memGet s.mem (a.toNat + j)

/-- R52, R53 and R56 together: bit `b` of a buffer is bit `b mod 8` of the byte `b div 8` bytes above its base. -/
def Obligations.BufferBitsArePackedLowToHigh : Prop :=
  ∀ (s : State) (b : Nat), s.regs.xBase.toNat % 8 = 0 → s.regs.yBase.toNat % 8 = 0 →
    (wordX s (b / 64)).getLsbD (b % 64) =
      (memGet s.mem ((s.regs.xBase.toNat + b / 8) % 2 ^ 64)).getLsbD (b % 8) ∧
    (wordY s (b / 64)).getLsbD (b % 64) =
      (memGet s.mem ((s.regs.yBase.toNat + b / 8) % 2 ^ 64)).getLsbD (b % 8)

/-- R56: the effective addresses, modulo 2^64; the words `xw(i)` and `yw(i)` are what `MemRead` returns there; and an
engine turn modifies no base register. -/
def Obligations.EffectiveAddressesWrap : Prop :=
  (∀ (s : State) (i : Nat),
    (addrX s.regs i).toNat = (s.regs.xBase.toNat + 8 * i) % 2 ^ 64 ∧
    (addrY s.regs i).toNat = (s.regs.yBase.toNat + 8 * i) % 2 ^ 64 ∧
    (∀ v, memRead s (addrX s.regs i) = .word v → v = wordX s i) ∧
    (∀ v, memRead s (addrY s.regs i) = .word v → v = wordY s i)) ∧
  ∀ s t : State, turnIsEngine s → step s = .next t → t.regs.xBase = s.regs.xBase ∧ t.regs.yBase = s.regs.yBase

/-- A read of the block's own register window is never admitted, and in a run it raises BUS_ERROR (20_memory.md section 2;
that the window has the same numbers in both address spaces is log entry 11's reading). -/
def Obligations.OwnWindowRaisesBusError : Prop :=
  (∀ (p : Platform) (a : Word),
    (∃ j < 8, p.blockBase ≤ a.toNat + j ∧ a.toNat + j ≤ p.blockBase + 0x7F) → memAdmit p a = false) ∧
  ∀ (s t : State) (a : Word), turnIsEngine s → s.regs.status.busy = true → step s = .next t →
    (∃ j < 8, s.platform.blockBase ≤ a.toNat + j ∧ a.toNat + j ≤ s.platform.blockBase + 0x7F) →
    a ∈ t.reads →
    t.regs.status.err = true ∧ t.regs.status.cause = .busError ∧ t.regs.faultInfo = a

/-- A write of the platform's memory by another agent (20_memory.md section 3): the word then stands there,
little-endian, every byte outside it reads as before, and no other part of the state but the turn changes. The form of
the memory and of such a turn is the model's choice (log entries 3 and 23). -/
def Obligations.PlatformWriteIsReadBack : Prop :=
  ∀ (s : State) (a v : Word) (rest : List Event), s.mem.wf = true → a.toNat % 8 = 0 →
    s.pending = .memory ⟨a, wordBytes v⟩ :: rest →
    ∃ m, step s = .next { s with pending := rest, reply := none, reads := [], mem := m } ∧ memWord m a = v ∧
      ∀ x : Nat, (x < a.toNat ∨ a.toNat + 8 ≤ x) → memGet m x = memGet s.mem x

/-- R50: every access of the memory port is a read at a multiple of 8, and the block writes no byte of memory: it
changes only where another agent's write lands. -/
def Obligations.BlockOnlyReadsMemory : Prop :=
  ∀ s t : State, step s = .next t →
    (∀ a ∈ t.reads, a.toNat % 8 = 0) ∧
    (turnWrites s = [] → ∀ a : Nat, memGet t.mem a = memGet s.mem a) ∧
    ∀ a : Word, (∀ w ∈ turnWrites s, w.covers a = false) → memGet t.mem a.toNat = memGet s.mem a.toNat

/-- The order of the engine's reads (20_memory.md section 3, part 1): x before y, no y read after a refused x read, and
no read in any other turn or while BUSY = 0. -/
def Obligations.EngineReadsXBeforeY : Prop :=
  ∀ s t : State, step s = .next t →
    ((¬ turnIsEngine s ∨ s.regs.status.busy = false) → t.reads = []) ∧
    (turnIsEngine s → s.regs.status.busy = true →
      t.reads = if memAdmit s.platform (addrX s.regs s.regs.idx.toNat) = true then
          [addrX s.regs s.regs.idx.toNat, addrY s.regs s.regs.idx.toNat]
        else [addrX s.regs s.regs.idx.toNat])

/-- R122: an accepted NOP changes nothing at all; while BUSY = 1 it is dropped and sets OVR. -/
def Obligations.NopChangesNothing : Prop :=
  ∀ s : State,
    (s.regs.status.busy = false → exec .nop s = .next s) ∧
    (s.regs.status.busy = true →
      exec .nop s = .next { s with regs := { s.regs with status := { s.regs.status with ovr := true } } })

/-- R123: what an accepted CLEAR leaves, everything else unchanged; no other command clears OVR; while BUSY = 1 a CLEAR
is dropped. -/
def Obligations.ClearClearsTheResult : Prop :=
  (∀ s : State,
    (s.regs.status.busy = false →
      exec .clear s = .next { s with regs := { s.regs with
        acc := 0, niter := 0, idx := 0, faultInfo := 0,
        status := { busy := false, done := true, err := false, ovr := false, cause := .none } } }) ∧
    (s.regs.status.busy = true →
      exec .clear s = .next { s with regs := { s.regs with status := { s.regs.status with ovr := true } } })) ∧
  ∀ (i : Instr) (s t : State), i ≠ .clear → exec i s = .next t → s.regs.status.ovr = true → t.regs.status.ovr = true

/-- R124: an accepted STEP adds the number of bits in which OPA and OPB differ to ACC, modulo 2^64, reports DONE, and
changes nothing else; it completes at once, without BUSY. -/
def Obligations.StepAccumulatesItsOperands : Prop :=
  ∀ s : State, s.regs.status.busy = false →
    exec .step s = .next { s with regs := { s.regs with
      acc := BitVec.ofNat 64 (s.regs.acc.toNat +
        (Finset.univ.filter fun j : Fin 64 => s.regs.opa.getLsbD j ≠ s.regs.opb.getLsbD j).card),
      faultInfo := 0,
      status := { s.regs.status with done := true, err := false, cause := .none } } }

/-- R125: the acceptance phase of RUN, its checks in their order, on every K and both bases; everything not named is
unchanged and no memory is read. -/
def Obligations.RunAcceptance : Prop :=
  ∀ s : State, s.regs.status.busy = false →
    let k := sint64 s.regs.k
    let n := (k.toNat + 63) / 64
    let ovr := s.regs.status.ovr
    exec .run s = .next { s with regs :=
      if k < 0 then
        { s.regs with acc := 0, idx := 0, niter := 0, faultInfo := s.regs.k,
                      status := { busy := false, done := false, err := true, ovr := ovr, cause := .negK } }
      else if n = 0 then
        { s.regs with acc := 0, idx := 0, niter := 0, faultInfo := 0,
                      status := { busy := false, done := true, err := false, ovr := ovr, cause := .none } }
      else if s.regs.xBase.toNat % 8 ≠ 0 then
        { s.regs with acc := 0, idx := 0, niter := BitVec.ofNat 64 n, faultInfo := s.regs.xBase,
                      status := { busy := false, done := false, err := true, ovr := ovr, cause := .misaligned } }
      else if s.regs.yBase.toNat % 8 ≠ 0 then
        { s.regs with acc := 0, idx := 0, niter := BitVec.ofNat 64 n, faultInfo := s.regs.yBase,
                      status := { busy := false, done := false, err := true, ovr := ovr, cause := .misaligned } }
      else
        { s.regs with acc := 0, idx := 0, niter := BitVec.ofNat 64 n, faultInfo := 0,
                      status := { busy := true, done := false, err := false, ovr := ovr, cause := .none } } }

/-- RUN completes its acceptance: with words to read and aligned bases it starts the engine, and with none it is done
(41_commands.md, RUN acceptance phase). -/
def Obligations.RunStartsOrIsDone : Prop :=
  ∀ s : State, s.regs.status.busy = false → 0 ≤ sint64 s.regs.k →
    (0 < sint64 s.regs.k → s.regs.xBase.toNat % 8 = 0 → s.regs.yBase.toNat % 8 = 0 →
      ∃ t, exec .run s = .next t ∧ t.regs.status.busy = true ∧ t.regs.acc = 0 ∧ t.regs.idx = 0 ∧
        t.regs.niter.toNat = niterOf (sint64 s.regs.k).toNat ∧ t.reads = s.reads) ∧
    (sint64 s.regs.k = 0 →
      ∃ t, exec .run s = .next t ∧ t.regs.status.busy = false ∧ t.regs.status.done = true ∧ t.regs.acc = 0 ∧
        t.regs.niter = 0 ∧ t.regs.idx = 0 ∧ t.reads = s.reads)

/-- R203: a RUN with a negative K records NEG_K with K, before any memory read. -/
def Obligations.NegativeKIsRejected : Prop :=
  causeCode .negK = 2 ∧
  ∀ (s : State) (rest : List Event), s.regs.status.busy = false → sint64 s.regs.k < 0 →
    s.pending = cmdWrite s.platform (encode .run) :: rest →
    ∃ t, step s = .next t ∧ t.reads = [] ∧ t.regs.status.err = true ∧ t.regs.status.cause = .negK ∧
      t.regs.status.busy = false ∧ t.regs.status.done = false ∧ t.regs.faultInfo = s.regs.k ∧ t.regs.acc = 0

/-- R204: a RUN with words to read and a misaligned base records MISALIGNED with the first misaligned base, before any
memory read. -/
def Obligations.MisalignedBaseIsRejected : Prop :=
  causeCode .misaligned = 3 ∧
  ∀ (s : State) (rest : List Event), s.regs.status.busy = false → 0 < sint64 s.regs.k →
    s.pending = cmdWrite s.platform (encode .run) :: rest →
    s.regs.xBase.toNat % 8 ≠ 0 ∨ s.regs.yBase.toNat % 8 ≠ 0 →
    ∃ t, step s = .next t ∧ t.reads = [] ∧ t.regs.status.err = true ∧ t.regs.status.cause = .misaligned ∧
      t.regs.faultInfo = (if s.regs.xBase.toNat % 8 ≠ 0 then s.regs.xBase else s.regs.yBase)

/-- R128: an accepted illegal word, RSV not zero or OP in 0x4 to 0xF, records ILLEGAL_CMD with the word and changes
nothing else. -/
def Obligations.IllegalWordIsRecorded : Prop :=
  causeCode .illegalCmd = 1 ∧
  ∀ (s : State) (c : Word) (rest : List Event), s.regs.status.busy = false →
    (c.toNat / 16 ≠ 0 ∨ 4 ≤ c.toNat % 16) → s.pending = cmdWrite s.platform c :: rest →
    step s = .next { s with pending := rest, reply := none, reads := [], regs := { s.regs with
      faultInfo := c,
      status := { s.regs.status with done := false, err := true, cause := .illegalCmd } } }

/-- R120: a CMD write sets OVR and nothing else while BUSY = 1; with BUSY = 0 its word is decoded and that command
carried out. -/
def Obligations.CommandWritesAreHandledAtOnce : Prop :=
  ∀ (s : State) (c : Word) (rest : List Event), s.pending = cmdWrite s.platform c :: rest →
    let s' : State := { s with pending := rest, reply := none, reads := [] }
    (s.regs.status.busy = true →
      step s = .next { s' with regs := { s.regs with status := { s.regs.status with ovr := true } } }) ∧
    (s.regs.status.busy = false →
      (∀ i, decode c = .command i → step s = exec i s') ∧
      (decode c = .illegal c → step s = .next { s' with regs := { s.regs with
        faultInfo := c,
        status := { s.regs.status with done := false, err := true, cause := .illegalCmd } } }))

/-- A step runs the decoded instruction: where the next turn is a CMD write whose word decodes to `i`, the step is
`exec i` on the state with the turn taken off the list and nothing on the ports; a command placed by `withFetchWord`
is run so (the model's choice, log entry 12). -/
def Obligations.StepRunsTheDecodedCommand : Prop :=
  (∀ (s : State) (c : Word) (i : Instr) (rest : List Event), s.pending = cmdWrite s.platform c :: rest →
    decode c = .command i → i.wf = true → step s = exec i { s with pending := rest, reply := none, reads := [] }) ∧
  ∀ (s : State) (i : Instr), i.wf = true →
    step (s.withFetchWord 64 (encode i).toNat) = exec i { s with reply := none, reads := [] }

/-- R121: StatusReset clears DONE, ERR, CAUSE and FAULT_INFO and nothing else, and every accepted command but NOP, an
illegal word among them, acts as if it had been done before. -/
def Obligations.CommandsBeginWithStatusReset : Prop :=
  (∀ r : Regs, statusReset r = { r with faultInfo := 0, status := { r.status with
    done := false, err := false, cause := .none } }) ∧
  (∀ (i : Instr) (s : State), i ≠ .nop → s.regs.status.busy = false →
    exec i s = exec i { s with regs := statusReset s.regs }) ∧
  ∀ (s : State) (c : Word) (rest : List Event), s.pending = cmdWrite s.platform c :: rest → decode c = .illegal c →
    s.regs.status.busy = false → step s = step { s with regs := statusReset s.regs }

/-- The frame of the four commands: none changes an operand register, a byte of memory, the platform, the pending turns
or the ports; NOP and STEP leave NITER and IDX; NOP leaves ACC and FAULT_INFO; a command that is dropped leaves every
register but STATUS, and there every field but OVR. The platform, the turns and the ports are the model's own fields (log
entries 1, 2, 4 and 8). -/
def Obligations.CommandFrame : Prop :=
  ∀ (i : Instr) (s t : State), exec i s = .next t →
    t.regs.xBase = s.regs.xBase ∧ t.regs.yBase = s.regs.yBase ∧ t.regs.k = s.regs.k ∧
    t.regs.opa = s.regs.opa ∧ t.regs.opb = s.regs.opb ∧
    (∀ a : Nat, memGet t.mem a = memGet s.mem a) ∧
    t.platform = s.platform ∧ t.pending = s.pending ∧ t.reply = s.reply ∧ t.reads = s.reads ∧
    (i = .nop ∨ i = .step → t.regs.niter = s.regs.niter ∧ t.regs.idx = s.regs.idx) ∧
    (i = .nop → t.regs.acc = s.regs.acc ∧ t.regs.faultInfo = s.regs.faultInfo) ∧
    (i ≠ .clear → s.regs.status.busy = false → t.regs.status.ovr = s.regs.status.ovr) ∧
    (s.regs.status.busy = true → t.regs = { s.regs with status := { s.regs.status with ovr := true } })

/-- R126: the engine step on word pair IDX, in a state with aligned bases, no other agent's write landing inside it;
with BUSY = 0 it is not enabled and the block does nothing. Where the platform refuses x, y is not read. -/
def Obligations.EngineStepProcessesOneWordPair : Prop :=
  ∀ (s : State) (rest : List Event), s.pending = .engine [] :: rest →
    s.regs.xBase.toNat % 8 = 0 → s.regs.yBase.toNat % 8 = 0 →
    let i := s.regs.idx.toNat
    let ax := addrX s.regs i
    let ay := addrY s.regs i
    let s' : State := { s with pending := rest, reply := none, reads := [] }
    step s =
      if s.regs.status.busy = false then .next s'
      else if memAdmit s.platform ax = false then
        .next { s' with reads := [ax], regs := { s.regs with
          acc := 0, faultInfo := ax,
          status := { s.regs.status with busy := false, done := false, err := true, cause := .busError } } }
      else if memAdmit s.platform ay = false then
        .next { s' with reads := [ax, ay], regs := { s.regs with
          acc := 0, faultInfo := ay,
          status := { s.regs.status with busy := false, done := false, err := true, cause := .busError } } }
      else
        .next { s' with reads := [ax, ay], regs := { s.regs with
          acc := BitVec.ofNat 64 (s.regs.acc.toNat + pxa (wordX s i) (wordY s i)),
          idx := BitVec.ofNat 64 (i + 1),
          status := if i + 1 = s.regs.niter.toNat then { s.regs.status with busy := false, done := true }
            else s.regs.status } }

/-- Other agents' writes inside an engine step land between its two read events (log entry 6, deduced from 20_memory.md
on read events): x is read from the memory before them, y from the memory after them. -/
def Obligations.WritesLandBetweenTheTwoReads : Prop :=
  ∀ (s : State) (ws : List MemWrite) (rest : List Event), s.pending = .engine ws :: rest →
    s.regs.status.busy = true → s.regs.xBase.toNat % 8 = 0 → s.regs.yBase.toNat % 8 = 0 →
    memAdmit s.platform (addrX s.regs s.regs.idx.toNat) = true →
    memAdmit s.platform (addrY s.regs s.regs.idx.toNat) = true →
    ∃ t, step s = .next t ∧ t.mem = landWrites s.mem ws ∧
      t.regs.acc = accumulate s.regs.acc (wordX s s.regs.idx.toNat)
        (memWord (landWrites s.mem ws) (addrY s.regs s.regs.idx.toNat))

/-- An idle block, BUSY = 0 (60_exceptions.md section 4): an engine turn is no step of it (log entry 5), reads no memory, and
all state survives it. With no turn pending the engine's is taken, which is the model's choice (log entry 4). -/
def Obligations.IdleBlockRests : Prop :=
  ∀ s : State, s.regs.status.busy = false →
    (s.pending = [] → step s = .next { s with reply := none, reads := [] }) ∧
    ∀ rest, s.pending = .engine [] :: rest → step s = .next { s with pending := rest, reply := none, reads := [] }

/-- R150: a host access is refused exactly when its width is not 64 bits, or its address is not `BLOCK_BASE + off` for an
`off` that is a multiple of 8 below 0x80; no other step is refused. -/
def Obligations.OnlyAdmittedAccessesAreCarriedOut : Prop :=
  (∀ (s : State) (rest : List Event) (width addr : Nat) (v : Word),
    s.pending = .host (.read width addr) :: rest ∨ s.pending = .host (.write width addr v) :: rest →
    (step s = .refused .accessNotAdmitted ↔
      ¬ (width = 64 ∧ ∃ off, addr = s.platform.blockBase + off ∧ off % 8 = 0 ∧ off < 0x80))) ∧
  ∀ (s : State) (q : Refusal), step s = .refused q → q = .accessNotAdmitted ∧ ∃ a, turnIs s (.host a)

/-- R151 and R152: what an admitted host read returns at each offset; nothing but the answer on the port changes. -/
def Obligations.ReadsReturnTheRegisters : Prop :=
  ∀ (s : State) (off : Nat) (rest : List Event), off % 8 = 0 → off < 0x80 →
    s.pending = readAt s.platform off :: rest →
    step s = .next { s with pending := rest, reads := [], reply := some (
      if off = 0x00 then 0
      else if off = 0x08 then statusWord s.regs.status
      else if off = 0x10 then s.regs.xBase
      else if off = 0x18 then s.regs.yBase
      else if off = 0x20 then s.regs.k
      else if off = 0x28 then s.regs.acc
      else if off = 0x30 then s.regs.opa
      else if off = 0x38 then s.regs.opb
      else if off = 0x40 then s.regs.niter
      else if off = 0x48 then s.regs.idx
      else if off = 0x50 then s.regs.faultInfo
      else 0) }

/-- The layout of STATUS and the cause codes (10_state.md section 2, 60_exceptions.md section 1): BUSY, DONE, ERR and OVR
in bits 0 to 3, CAUSE in bits 11:8, and 0 in bits 7:4 and 63:12. -/
def Obligations.StatusWordLayout : Prop :=
  (∀ st : Status,
    (statusWord st).getLsbD 0 = st.busy ∧ (statusWord st).getLsbD 1 = st.done ∧
    (statusWord st).getLsbD 2 = st.err ∧ (statusWord st).getLsbD 3 = st.ovr ∧
    (statusWord st).extractLsb' 4 4 = 0 ∧ (statusWord st).extractLsb' 8 4 = causeCode st.cause ∧
    (statusWord st).extractLsb' 12 52 = 0) ∧
  causeCode .none = 0 ∧ causeCode .illegalCmd = 1 ∧ causeCode .negK = 2 ∧ causeCode .misaligned = 3 ∧
  causeCode .busError = 4 ∧ statusWord Status.reset = 0

/-- R154: a write to X_BASE, Y_BASE or K stores all 64 bits while BUSY = 0, and is dropped, setting OVR, while
BUSY = 1; either way nothing else changes. -/
def Obligations.RunOperandWrites : Prop :=
  ∀ (s : State) (v : Word) (off : Nat) (rest : List Event), s.pending = writeAt s.platform off v :: rest →
    off = 0x10 ∨ off = 0x18 ∨ off = 0x20 →
    step s = .next { s with pending := rest, reply := none, reads := [], regs :=
      if s.regs.status.busy = true then { s.regs with status := { s.regs.status with ovr := true } }
      else if off = 0x10 then { s.regs with xBase := v }
      else if off = 0x18 then { s.regs with yBase := v }
      else { s.regs with k := v } }

/-- R155: a write to OPA or OPB stores all 64 bits whatever BUSY holds; and no engine step depends on either. -/
def Obligations.StepOperandWrites : Prop :=
  (∀ (s : State) (v : Word) (rest : List Event),
    (s.pending = writeAt s.platform 0x30 v :: rest →
      step s = .next { s with pending := rest, reply := none, reads := [], regs := { s.regs with opa := v } }) ∧
    (s.pending = writeAt s.platform 0x38 v :: rest →
      step s = .next { s with pending := rest, reply := none, reads := [], regs := { s.regs with opb := v } })) ∧
  ∀ (s t : State) (v w : Word), turnIsEngine s → step s = .next t →
    step { s with regs := { s.regs with opa := v, opb := w } } =
      .next { t with regs := { t.regs with opa := v, opb := w } }

/-- R156 and R157: a write to STATUS, ACC, NITER, IDX or FAULT_INFO or to a reserved offset is ignored, and a reserved
offset reads 0. -/
def Obligations.ReadOnlyAndReservedOffsets : Prop :=
  ∀ (s : State) (v : Word) (off : Nat) (rest : List Event), off % 8 = 0 → off < 0x80 →
    ((off = 0x08 ∨ off = 0x28 ∨ 0x40 ≤ off) → s.pending = writeAt s.platform off v :: rest →
      step s = .next { s with pending := rest, reply := none, reads := [] }) ∧
    (0x58 ≤ off → s.pending = readAt s.platform off :: rest →
      step s = .next { s with pending := rest, reply := some 0, reads := [] })

/-- The order of one host's accesses (42_register_access.md, atomicity and order): a read right after a write to the
same operand register sees the value written, or, where the write was dropped, the value before it. -/
def Obligations.ReadAfterWriteSeesTheWrite : Prop :=
  ∀ (s : State) (v : Word) (off : Nat) (rest : List Event),
    s.pending = writeAt s.platform off v :: readAt s.platform off :: rest →
    off = 0x10 ∨ off = 0x18 ∨ off = 0x20 ∨ off = 0x30 ∨ off = 0x38 →
    ∃ t, runSteps 2 s = .next t ∧ t.pending = rest ∧
      t.reply = some (
        if s.regs.status.busy = true ∧ off ≤ 0x20 then
          (if off = 0x10 then s.regs.xBase else if off = 0x18 then s.regs.yBase else s.regs.k)
        else v)

/-- R23: BUSY becomes 1 exactly by the acceptance of a RUN with words to read and aligned bases, and 0 exactly by the
engine step that completes the last word, by recording an error, or by reset; it is 0 after reset. While BUSY = 1 an
engine turn has a step to take, and every write to CMD, X_BASE, Y_BASE or K is dropped. -/
def Obligations.BusyRisesAndFallsAsStated : Prop :=
  State.reset.regs.status.busy = false ∧
  (∀ (c : Cause) (info : Word) (r : Regs), (raiseError c info r).status.busy = false) ∧
  ∀ s t : State, step s = .next t →
    (s.regs.status.busy = false →
      (t.regs.status.busy = true ↔
        turnIs s (cmdWrite s.platform (encode .run)) ∧ 0 < sint64 s.regs.k ∧
        s.regs.xBase.toNat % 8 = 0 ∧ s.regs.yBase.toNat % 8 = 0)) ∧
    (s.regs.status.busy = true →
      (t.regs.status.busy = false ↔
        turnIs s .reset ∨
        (turnIsEngine s ∧
          ((t.regs.status.done = true ∧ s.regs.idx.toNat + 1 = s.regs.niter.toNat) ∨
           (t.regs.status.err = true ∧ t.regs.status.cause = .busError ∧ t.regs.idx = s.regs.idx)))) ∧
      (turnIsEngine s → t.reads ≠ [] ∧ t.regs ≠ s.regs) ∧
      ∀ (off : Nat) (v : Word), off = 0x00 ∨ off = 0x10 ∨ off = 0x18 ∨ off = 0x20 →
        turnIs s (writeAt s.platform off v) →
        t.regs = { s.regs with status := { s.regs.status with ovr := true } })

/-- R26: OVR is set exactly by a dropped write to CMD, X_BASE, Y_BASE or K while BUSY = 1, which leaves ERR and CAUSE
alone, and becomes 0 exactly by an accepted CLEAR or by reset; StatusReset leaves it; it is 0 after reset. -/
def Obligations.OverrunIsSticky : Prop :=
  State.reset.regs.status.ovr = false ∧
  (∀ r : Regs, (statusReset r).status.ovr = r.status.ovr) ∧
  ∀ s t : State, step s = .next t →
    (s.regs.status.ovr = false →
      (t.regs.status.ovr = true ↔
        s.regs.status.busy = true ∧ ∃ off v, turnIs s (writeAt s.platform off v) ∧
          (off = 0x00 ∨ off = 0x10 ∨ off = 0x18 ∨ off = 0x20)) ∧
      (t.regs.status.ovr = true → t.regs.status.err = s.regs.status.err ∧ t.regs.status.cause = s.regs.status.cause)) ∧
    (s.regs.status.ovr = true →
      (t.regs.status.ovr = false ↔
        turnIs s .reset ∨ (s.regs.status.busy = false ∧ turnIs s (cmdWrite s.platform (encode .clear)))))

/-- Who writes the operand registers (10_state.md, X_BASE to OPB): only a host write to that very register, with the
value it then holds, or reset; X_BASE, Y_BASE and K only while BUSY = 0. -/
def Obligations.OperandRegistersChangeOnlyByHostWrites : Prop :=
  ∀ s t : State, step s = .next t → ¬ turnIs s .reset →
    (t.regs.xBase ≠ s.regs.xBase → s.regs.status.busy = false ∧ turnIs s (writeAt s.platform 0x10 t.regs.xBase)) ∧
    (t.regs.yBase ≠ s.regs.yBase → s.regs.status.busy = false ∧ turnIs s (writeAt s.platform 0x18 t.regs.yBase)) ∧
    (t.regs.k ≠ s.regs.k → s.regs.status.busy = false ∧ turnIs s (writeAt s.platform 0x20 t.regs.k)) ∧
    (t.regs.opa ≠ s.regs.opa → turnIs s (writeAt s.platform 0x30 t.regs.opa)) ∧
    (t.regs.opb ≠ s.regs.opb → turnIs s (writeAt s.platform 0x38 t.regs.opb))

/-- Who writes ACC, NITER and IDX: an engine turn while BUSY = 1, an accepted command, or reset (10_state.md, ACC, NITER
and IDX). -/
def Obligations.ResultRegistersChangeOnlyByCommandsAndTheEngine : Prop :=
  ∀ s t : State, step s = .next t →
    t.regs.acc ≠ s.regs.acc ∨ t.regs.niter ≠ s.regs.niter ∨ t.regs.idx ≠ s.regs.idx →
    turnIs s .reset ∨ (turnIsEngine s ∧ s.regs.status.busy = true) ∨
    (s.regs.status.busy = false ∧ ∃ i, i ≠ .nop ∧ turnIs s (cmdWrite s.platform (encode i)))

/-- The spec's derived statement on when a host may read the results (20_memory.md section 3): with BUSY = 0 they stay as
they are until the next accepted command other than NOP, or reset. -/
def Obligations.ResultsStayUntilTheNextCommand : Prop :=
  ∀ s t : State, s.regs.status.busy = false → step s = .next t → ¬ turnIs s .reset → ¬ turnReplacesStatus s →
    t.regs.status = s.regs.status ∧ t.regs.acc = s.regs.acc ∧ t.regs.niter = s.regs.niter ∧
    t.regs.idx = s.regs.idx ∧ t.regs.faultInfo = s.regs.faultInfo

/-- R250: reset sets every register to 0, in one step, from any state, and touches neither the memory nor the platform;
the state after power-up has the same registers. -/
def Obligations.ResetZeroesEveryRegister : Prop :=
  (∀ (s : State) (rest : List Event), s.pending = .reset :: rest →
    step s = .next { s with pending := rest, reply := none, reads := [], regs :=
      { status := { busy := false, done := false, err := false, ovr := false, cause := .none },
        xBase := 0, yBase := 0, k := 0, acc := 0, opa := 0, opb := 0, niter := 0, idx := 0, faultInfo := 0 } }) ∧
  State.reset.regs =
    { status := { busy := false, done := false, err := false, ovr := false, cause := .none },
      xBase := 0, yBase := 0, k := 0, acc := 0, opa := 0, opb := 0, niter := 0, idx := 0, faultInfo := 0 }

/-- The invariant holds right after reset; the canonical form of the memory is the model's own (log entry 3). -/
def Obligations.InvariantHoldsAtReset : Prop := MachineInv State.reset

/-- The invariants of the registers (10_state.md section 3, which the spec marks as derived) and the canonical form of
the memory (the model's own) are kept by every step, from every state that meets them, whatever the agents do. -/
def Obligations.EveryStepKeepsTheInvariant : Prop :=
  ∀ s t : State, MachineInv s → step s = .next t → MachineInv t

/-- The only fault of the model, a misaligned read (log entry 7), is never raised in a state that meets the invariant. -/
def Obligations.NoStepFaultsUnderTheInvariant : Prop :=
  ∀ s : State, MachineInv s → stopsWithFault (step s) = false

/-- The OPEN platform parameters are constants of the machine: no step changes them; and a step takes one turn. Both
are the model's rendering (log entries 1, 2, 4 and 24). -/
def Obligations.PlatformIsFixed : Prop :=
  ∀ s t : State, step s = .next t → t.platform = s.platform ∧ t.pending = laterTurns s

/-- The spec's derived statement that no sum wraps inside a RUN (40_datapath.md, no overflow inside a RUN): counting one
more word pair adds exactly, and the sum stays at most 2^63. -/
def Obligations.RunNeverWraps : Prop :=
  ∀ (s : State) (vx vy : Word), MachineInv s → s.regs.status.busy = true →
    (accumulate s.regs.acc vx vy).toNat = s.regs.acc.toNat + pxa vx vy ∧ s.regs.acc.toNat + pxa vx vy ≤ 2 ^ 63

/-- Every schedule of a run: while ACC is the partial sum over the pairs done and no agent writes a buffer word or
resets, a step keeps the run's operands and leaves the run in progress with ACC the partial sum, or ends it with ACC the
Hamming distance, or ends it with a bus error and ACC = 0. -/
def Obligations.RunKeepsThePartialSum : Prop :=
  ∀ s t : State, MachineInv s → s.regs.status.busy = true → s.regs.acc.toNat = partialSum s → sparesBuffers s →
    ¬ turnIs s .reset → step s = .next t →
    t.regs.xBase = s.regs.xBase ∧ t.regs.yBase = s.regs.yBase ∧ t.regs.k = s.regs.k ∧
    t.regs.niter = s.regs.niter ∧
    (∀ i < s.regs.niter.toNat, wordX t i = wordX s i ∧ wordY t i = wordY s i) ∧
    ((t.regs.status.busy = true ∧ t.regs.acc.toNat = partialSum t) ∨
     (t.regs.status.busy = false ∧ t.regs.status.done = true ∧ t.regs.idx = t.regs.niter ∧
       t.regs.acc.toNat = hd (wordX s) (wordY s) (sint64 s.regs.k).toNat) ∨
     (t.regs.status.busy = false ∧ t.regs.status.err = true ∧ t.regs.status.cause = .busError ∧ t.regs.acc = 0 ∧
       t.regs.idx = s.regs.idx))

/-- The end state of a successful run, which the spec marks as derived (41_commands.md section 3): RUN accepted on a K
that is not negative, aligned bases if there are words, every read admitted, nobody else moving; then after exactly
NITER(k) engine steps, and not before, the run is done and ACC is HD(x, y, k). That nobody else moves is an empty list of
turns, the model's choice (log entry 4). -/
def Obligations.RunComputesTheHammingDistance : Prop :=
  ∀ s : State, s.regs.status.busy = false → s.pending = [] → 0 ≤ sint64 s.regs.k →
    let k := (sint64 s.regs.k).toNat
    let n := niterOf k
    (0 < n → s.regs.xBase.toNat % 8 = 0 ∧ s.regs.yBase.toNat % 8 = 0) → admitsRun s n →
    ∃ t u, exec .run s = .next t ∧
      (∀ j < n, ∃ w, runSteps j t = .next w ∧ w.regs.status.busy = true) ∧
      runSteps n t = .next u ∧
      u.regs.acc.toNat = hd (wordX s) (wordY s) k ∧
      u.regs = { s.regs with
        acc := u.regs.acc, niter := BitVec.ofNat 64 n, idx := BitVec.ofNat 64 n, faultInfo := 0,
        status := { busy := false, done := true, err := false, ovr := s.regs.status.ovr, cause := .none } } ∧
      u.mem = s.mem

/-- The spec's derived termination (70_reset_and_hazards.md section 4): when the engine alone moves, a run in progress
ends within as many steps as it has word pairs left. That an empty list of turns lets the engine move is the model's
choice (log entry 4). -/
def Obligations.EveryRunEnds : Prop :=
  ∀ s : State, MachineInv s → s.regs.status.busy = true → s.pending = [] →
    ∃ n t, n ≤ s.regs.niter.toNat - s.regs.idx.toNat ∧ runSteps n s = .next t ∧ t.regs.status.busy = false ∧
      (t.regs.status.done = true ∨ t.regs.status.cause = .busError)

/-- The pseudo-instruction HAMMING (30_encoding.md section 3, derived there), in the schedule in which the engine ends
the run before the host polls: from any idle state, on aligned buffers that the platform answers, its last two reads
give the distance. One poll is one of the schedules of
log entry 17. -/
def Obligations.HammingScriptReturnsTheDistance : Prop :=
  ∀ (s : State) (xb yb kv : Word), s.regs.status.busy = false → 0 ≤ sint64 kv → xb.toNat % 8 = 0 → yb.toNat % 8 = 0 →
    let k := (sint64 kv).toNat
    let n := niterOf k
    let x := fun i => memWord s.mem (wordAddr xb i)
    let y := fun i => memWord s.mem (wordAddr yb i)
    (∀ i < n, memAdmit s.platform (wordAddr xb i) = true ∧ memAdmit s.platform (wordAddr yb i) = true) →
    s.pending = scriptEvents s.platform (hammingStart xb yb kv) ++ List.replicate n (.engine []) ++
      scriptEvents s.platform (waitLines 1 ++ [.rd .status, .rd .acc]) →
    ∃ w t u ws st r, runSteps (4 + n + 1) s = .next w ∧ w.reply = some ws ∧ waitEnds [ws] = true ∧
      step w = .next t ∧ t.reply = some st ∧ step t = .next u ∧ u.reply = some r ∧
      hammingResult st r = some (.distance r) ∧ r.toNat = hd x y k
end

