-- ==== Sys2Proof/Laws/Datapath.lean ====
section
/-! SUPPORT. What the datapath functions of Operands.lean can answer: bounds, and their values as numbers. -/

namespace Sys2Proof.Machine

theorem sum_map_le (f : Nat → Nat) (b : Nat) (h : ∀ j, f j ≤ b) (l : List Nat) : (l.map f).sum ≤ b * l.length := by
  induction l with
  | nil => simp
  | cons x xs ih => have := h x; simp only [List.map_cons, List.sum_cons, List.length_cons, Nat.mul_succ]; omega

theorem popcount64_le (v : Word) : popcount64 v ≤ 64 := by
  have := sum_map_le (fun j => (v.getLsbD j).toNat) 1 (fun j => Bool.toNat_le _) (List.range 64)
  simpa [popcount64] using this

theorem pxa_le (a b : Word) : pxa a b ≤ 64 := popcount64_le _

theorem accumulate_toNat (acc a b : Word) : (accumulate acc a b).toNat = (acc.toNat + pxa a b) % 2 ^ 64 := by
  simp [accumulate]

theorem accumulate_toNat_of_lt {acc a b : Word} (h : acc.toNat + pxa a b < 2 ^ 64) :
    (accumulate acc a b).toNat = acc.toNat + pxa a b := by
  rw [accumulate_toNat, Nat.mod_eq_of_lt h]

theorem niterOf_eq_zero {k : Nat} : niterOf k = 0 ↔ k = 0 := by
  unfold niterOf; split <;> omega

theorem niterOf_le {k : Nat} (h : k < 2 ^ 63) : niterOf k ≤ 2 ^ 57 := by
  unfold niterOf; split <;> omega

theorem sint64_toNat_lt {v : Word} (h : 0 ≤ sint64 v) : (sint64 v).toNat < 2 ^ 63 := by
  unfold sint64 at *
  have hv := v.isLt
  split at h
  · omega
  · rename_i hb
    have : v.toNat < 2 ^ 63 := by
      by_contra hc
      have : v.getLsbD 63 = true := by
        simp [BitVec.getLsbD, Nat.testBit, Nat.shiftRight_eq_div_pow]; omega
      exact hb this
    rw [if_neg hb]; simpa using this

theorem wordAddr_toNat (base : Word) (i : Nat) : (wordAddr base i).toNat = (base.toNat + 8 * i) % 2 ^ 64 := by
  simp [wordAddr]

theorem aligned8_iff {a : Word} : aligned8 a = true ↔ a.toNat % 8 = 0 := by simp [aligned8]

theorem wordAddr_aligned {base : Word} (h : aligned8 base = true) (i : Nat) : aligned8 (wordAddr base i) = true := by
  rw [aligned8_iff] at *; rw [wordAddr_toNat]; omega

end Sys2Proof.Machine
end

