-- ==== Sys2Proof/Laws/State.lean ====
section
/-! SUPPORT. One lemma per field per update of the state records: no later proof unfolds a record update. -/

namespace Sys2Proof.Machine

@[simp] theorem Status.setBusy_busy (st : Status) (v : Bool) : (st.setBusy v).busy = v := rfl
@[simp] theorem Status.setBusy_done (st : Status) (v : Bool) : (st.setBusy v).done = st.done := rfl
@[simp] theorem Status.setBusy_err (st : Status) (v : Bool) : (st.setBusy v).err = st.err := rfl
@[simp] theorem Status.setBusy_ovr (st : Status) (v : Bool) : (st.setBusy v).ovr = st.ovr := rfl
@[simp] theorem Status.setBusy_cause (st : Status) (v : Bool) : (st.setBusy v).cause = st.cause := rfl
@[simp] theorem Status.setDone_busy (st : Status) (v : Bool) : (st.setDone v).busy = st.busy := rfl
@[simp] theorem Status.setDone_done (st : Status) (v : Bool) : (st.setDone v).done = v := rfl
@[simp] theorem Status.setDone_err (st : Status) (v : Bool) : (st.setDone v).err = st.err := rfl
@[simp] theorem Status.setDone_ovr (st : Status) (v : Bool) : (st.setDone v).ovr = st.ovr := rfl
@[simp] theorem Status.setDone_cause (st : Status) (v : Bool) : (st.setDone v).cause = st.cause := rfl
@[simp] theorem Status.setErr_busy (st : Status) (v : Bool) : (st.setErr v).busy = st.busy := rfl
@[simp] theorem Status.setErr_done (st : Status) (v : Bool) : (st.setErr v).done = st.done := rfl
@[simp] theorem Status.setErr_err (st : Status) (v : Bool) : (st.setErr v).err = v := rfl
@[simp] theorem Status.setErr_ovr (st : Status) (v : Bool) : (st.setErr v).ovr = st.ovr := rfl
@[simp] theorem Status.setErr_cause (st : Status) (v : Bool) : (st.setErr v).cause = st.cause := rfl
@[simp] theorem Status.setOvr_busy (st : Status) (v : Bool) : (st.setOvr v).busy = st.busy := rfl
@[simp] theorem Status.setOvr_done (st : Status) (v : Bool) : (st.setOvr v).done = st.done := rfl
@[simp] theorem Status.setOvr_err (st : Status) (v : Bool) : (st.setOvr v).err = st.err := rfl
@[simp] theorem Status.setOvr_ovr (st : Status) (v : Bool) : (st.setOvr v).ovr = v := rfl
@[simp] theorem Status.setOvr_cause (st : Status) (v : Bool) : (st.setOvr v).cause = st.cause := rfl
@[simp] theorem Status.setCause_busy (st : Status) (v : Cause) : (st.setCause v).busy = st.busy := rfl
@[simp] theorem Status.setCause_done (st : Status) (v : Cause) : (st.setCause v).done = st.done := rfl
@[simp] theorem Status.setCause_err (st : Status) (v : Cause) : (st.setCause v).err = st.err := rfl
@[simp] theorem Status.setCause_ovr (st : Status) (v : Cause) : (st.setCause v).ovr = st.ovr := rfl
@[simp] theorem Status.setCause_cause (st : Status) (v : Cause) : (st.setCause v).cause = v := rfl
@[simp] theorem Regs.setStatus_status (r : Regs) (v : Status) : (r.setStatus v).status = v := rfl
@[simp] theorem Regs.setStatus_xBase (r : Regs) (v : Status) : (r.setStatus v).xBase = r.xBase := rfl
@[simp] theorem Regs.setStatus_yBase (r : Regs) (v : Status) : (r.setStatus v).yBase = r.yBase := rfl
@[simp] theorem Regs.setStatus_k (r : Regs) (v : Status) : (r.setStatus v).k = r.k := rfl
@[simp] theorem Regs.setStatus_acc (r : Regs) (v : Status) : (r.setStatus v).acc = r.acc := rfl
@[simp] theorem Regs.setStatus_opa (r : Regs) (v : Status) : (r.setStatus v).opa = r.opa := rfl
@[simp] theorem Regs.setStatus_opb (r : Regs) (v : Status) : (r.setStatus v).opb = r.opb := rfl
@[simp] theorem Regs.setStatus_niter (r : Regs) (v : Status) : (r.setStatus v).niter = r.niter := rfl
@[simp] theorem Regs.setStatus_idx (r : Regs) (v : Status) : (r.setStatus v).idx = r.idx := rfl
@[simp] theorem Regs.setStatus_faultInfo (r : Regs) (v : Status) : (r.setStatus v).faultInfo = r.faultInfo := rfl
@[simp] theorem Regs.setXBase_status (r : Regs) (v : Word) : (r.setXBase v).status = r.status := rfl
@[simp] theorem Regs.setXBase_xBase (r : Regs) (v : Word) : (r.setXBase v).xBase = v := rfl
@[simp] theorem Regs.setXBase_yBase (r : Regs) (v : Word) : (r.setXBase v).yBase = r.yBase := rfl
@[simp] theorem Regs.setXBase_k (r : Regs) (v : Word) : (r.setXBase v).k = r.k := rfl
@[simp] theorem Regs.setXBase_acc (r : Regs) (v : Word) : (r.setXBase v).acc = r.acc := rfl
@[simp] theorem Regs.setXBase_opa (r : Regs) (v : Word) : (r.setXBase v).opa = r.opa := rfl
@[simp] theorem Regs.setXBase_opb (r : Regs) (v : Word) : (r.setXBase v).opb = r.opb := rfl
@[simp] theorem Regs.setXBase_niter (r : Regs) (v : Word) : (r.setXBase v).niter = r.niter := rfl
@[simp] theorem Regs.setXBase_idx (r : Regs) (v : Word) : (r.setXBase v).idx = r.idx := rfl
@[simp] theorem Regs.setXBase_faultInfo (r : Regs) (v : Word) : (r.setXBase v).faultInfo = r.faultInfo := rfl
@[simp] theorem Regs.setYBase_status (r : Regs) (v : Word) : (r.setYBase v).status = r.status := rfl
@[simp] theorem Regs.setYBase_xBase (r : Regs) (v : Word) : (r.setYBase v).xBase = r.xBase := rfl
@[simp] theorem Regs.setYBase_yBase (r : Regs) (v : Word) : (r.setYBase v).yBase = v := rfl
@[simp] theorem Regs.setYBase_k (r : Regs) (v : Word) : (r.setYBase v).k = r.k := rfl
@[simp] theorem Regs.setYBase_acc (r : Regs) (v : Word) : (r.setYBase v).acc = r.acc := rfl
@[simp] theorem Regs.setYBase_opa (r : Regs) (v : Word) : (r.setYBase v).opa = r.opa := rfl
@[simp] theorem Regs.setYBase_opb (r : Regs) (v : Word) : (r.setYBase v).opb = r.opb := rfl
@[simp] theorem Regs.setYBase_niter (r : Regs) (v : Word) : (r.setYBase v).niter = r.niter := rfl
@[simp] theorem Regs.setYBase_idx (r : Regs) (v : Word) : (r.setYBase v).idx = r.idx := rfl
@[simp] theorem Regs.setYBase_faultInfo (r : Regs) (v : Word) : (r.setYBase v).faultInfo = r.faultInfo := rfl
@[simp] theorem Regs.setK_status (r : Regs) (v : Word) : (r.setK v).status = r.status := rfl
@[simp] theorem Regs.setK_xBase (r : Regs) (v : Word) : (r.setK v).xBase = r.xBase := rfl
@[simp] theorem Regs.setK_yBase (r : Regs) (v : Word) : (r.setK v).yBase = r.yBase := rfl
@[simp] theorem Regs.setK_k (r : Regs) (v : Word) : (r.setK v).k = v := rfl
@[simp] theorem Regs.setK_acc (r : Regs) (v : Word) : (r.setK v).acc = r.acc := rfl
@[simp] theorem Regs.setK_opa (r : Regs) (v : Word) : (r.setK v).opa = r.opa := rfl
@[simp] theorem Regs.setK_opb (r : Regs) (v : Word) : (r.setK v).opb = r.opb := rfl
@[simp] theorem Regs.setK_niter (r : Regs) (v : Word) : (r.setK v).niter = r.niter := rfl
@[simp] theorem Regs.setK_idx (r : Regs) (v : Word) : (r.setK v).idx = r.idx := rfl
@[simp] theorem Regs.setK_faultInfo (r : Regs) (v : Word) : (r.setK v).faultInfo = r.faultInfo := rfl
@[simp] theorem Regs.setAcc_status (r : Regs) (v : Word) : (r.setAcc v).status = r.status := rfl
@[simp] theorem Regs.setAcc_xBase (r : Regs) (v : Word) : (r.setAcc v).xBase = r.xBase := rfl
@[simp] theorem Regs.setAcc_yBase (r : Regs) (v : Word) : (r.setAcc v).yBase = r.yBase := rfl
@[simp] theorem Regs.setAcc_k (r : Regs) (v : Word) : (r.setAcc v).k = r.k := rfl
@[simp] theorem Regs.setAcc_acc (r : Regs) (v : Word) : (r.setAcc v).acc = v := rfl
@[simp] theorem Regs.setAcc_opa (r : Regs) (v : Word) : (r.setAcc v).opa = r.opa := rfl
@[simp] theorem Regs.setAcc_opb (r : Regs) (v : Word) : (r.setAcc v).opb = r.opb := rfl
@[simp] theorem Regs.setAcc_niter (r : Regs) (v : Word) : (r.setAcc v).niter = r.niter := rfl
@[simp] theorem Regs.setAcc_idx (r : Regs) (v : Word) : (r.setAcc v).idx = r.idx := rfl
@[simp] theorem Regs.setAcc_faultInfo (r : Regs) (v : Word) : (r.setAcc v).faultInfo = r.faultInfo := rfl
@[simp] theorem Regs.setOpa_status (r : Regs) (v : Word) : (r.setOpa v).status = r.status := rfl
@[simp] theorem Regs.setOpa_xBase (r : Regs) (v : Word) : (r.setOpa v).xBase = r.xBase := rfl
@[simp] theorem Regs.setOpa_yBase (r : Regs) (v : Word) : (r.setOpa v).yBase = r.yBase := rfl
@[simp] theorem Regs.setOpa_k (r : Regs) (v : Word) : (r.setOpa v).k = r.k := rfl
@[simp] theorem Regs.setOpa_acc (r : Regs) (v : Word) : (r.setOpa v).acc = r.acc := rfl
@[simp] theorem Regs.setOpa_opa (r : Regs) (v : Word) : (r.setOpa v).opa = v := rfl
@[simp] theorem Regs.setOpa_opb (r : Regs) (v : Word) : (r.setOpa v).opb = r.opb := rfl
@[simp] theorem Regs.setOpa_niter (r : Regs) (v : Word) : (r.setOpa v).niter = r.niter := rfl
@[simp] theorem Regs.setOpa_idx (r : Regs) (v : Word) : (r.setOpa v).idx = r.idx := rfl
@[simp] theorem Regs.setOpa_faultInfo (r : Regs) (v : Word) : (r.setOpa v).faultInfo = r.faultInfo := rfl
@[simp] theorem Regs.setOpb_status (r : Regs) (v : Word) : (r.setOpb v).status = r.status := rfl
@[simp] theorem Regs.setOpb_xBase (r : Regs) (v : Word) : (r.setOpb v).xBase = r.xBase := rfl
@[simp] theorem Regs.setOpb_yBase (r : Regs) (v : Word) : (r.setOpb v).yBase = r.yBase := rfl
@[simp] theorem Regs.setOpb_k (r : Regs) (v : Word) : (r.setOpb v).k = r.k := rfl
@[simp] theorem Regs.setOpb_acc (r : Regs) (v : Word) : (r.setOpb v).acc = r.acc := rfl
@[simp] theorem Regs.setOpb_opa (r : Regs) (v : Word) : (r.setOpb v).opa = r.opa := rfl
@[simp] theorem Regs.setOpb_opb (r : Regs) (v : Word) : (r.setOpb v).opb = v := rfl
@[simp] theorem Regs.setOpb_niter (r : Regs) (v : Word) : (r.setOpb v).niter = r.niter := rfl
@[simp] theorem Regs.setOpb_idx (r : Regs) (v : Word) : (r.setOpb v).idx = r.idx := rfl
@[simp] theorem Regs.setOpb_faultInfo (r : Regs) (v : Word) : (r.setOpb v).faultInfo = r.faultInfo := rfl
@[simp] theorem Regs.setNiter_status (r : Regs) (v : Word) : (r.setNiter v).status = r.status := rfl
@[simp] theorem Regs.setNiter_xBase (r : Regs) (v : Word) : (r.setNiter v).xBase = r.xBase := rfl
@[simp] theorem Regs.setNiter_yBase (r : Regs) (v : Word) : (r.setNiter v).yBase = r.yBase := rfl
@[simp] theorem Regs.setNiter_k (r : Regs) (v : Word) : (r.setNiter v).k = r.k := rfl
@[simp] theorem Regs.setNiter_acc (r : Regs) (v : Word) : (r.setNiter v).acc = r.acc := rfl
@[simp] theorem Regs.setNiter_opa (r : Regs) (v : Word) : (r.setNiter v).opa = r.opa := rfl
@[simp] theorem Regs.setNiter_opb (r : Regs) (v : Word) : (r.setNiter v).opb = r.opb := rfl
@[simp] theorem Regs.setNiter_niter (r : Regs) (v : Word) : (r.setNiter v).niter = v := rfl
@[simp] theorem Regs.setNiter_idx (r : Regs) (v : Word) : (r.setNiter v).idx = r.idx := rfl
@[simp] theorem Regs.setNiter_faultInfo (r : Regs) (v : Word) : (r.setNiter v).faultInfo = r.faultInfo := rfl
@[simp] theorem Regs.setIdx_status (r : Regs) (v : Word) : (r.setIdx v).status = r.status := rfl
@[simp] theorem Regs.setIdx_xBase (r : Regs) (v : Word) : (r.setIdx v).xBase = r.xBase := rfl
@[simp] theorem Regs.setIdx_yBase (r : Regs) (v : Word) : (r.setIdx v).yBase = r.yBase := rfl
@[simp] theorem Regs.setIdx_k (r : Regs) (v : Word) : (r.setIdx v).k = r.k := rfl
@[simp] theorem Regs.setIdx_acc (r : Regs) (v : Word) : (r.setIdx v).acc = r.acc := rfl
@[simp] theorem Regs.setIdx_opa (r : Regs) (v : Word) : (r.setIdx v).opa = r.opa := rfl
@[simp] theorem Regs.setIdx_opb (r : Regs) (v : Word) : (r.setIdx v).opb = r.opb := rfl
@[simp] theorem Regs.setIdx_niter (r : Regs) (v : Word) : (r.setIdx v).niter = r.niter := rfl
@[simp] theorem Regs.setIdx_idx (r : Regs) (v : Word) : (r.setIdx v).idx = v := rfl
@[simp] theorem Regs.setIdx_faultInfo (r : Regs) (v : Word) : (r.setIdx v).faultInfo = r.faultInfo := rfl
@[simp] theorem Regs.setFaultInfo_status (r : Regs) (v : Word) : (r.setFaultInfo v).status = r.status := rfl
@[simp] theorem Regs.setFaultInfo_xBase (r : Regs) (v : Word) : (r.setFaultInfo v).xBase = r.xBase := rfl
@[simp] theorem Regs.setFaultInfo_yBase (r : Regs) (v : Word) : (r.setFaultInfo v).yBase = r.yBase := rfl
@[simp] theorem Regs.setFaultInfo_k (r : Regs) (v : Word) : (r.setFaultInfo v).k = r.k := rfl
@[simp] theorem Regs.setFaultInfo_acc (r : Regs) (v : Word) : (r.setFaultInfo v).acc = r.acc := rfl
@[simp] theorem Regs.setFaultInfo_opa (r : Regs) (v : Word) : (r.setFaultInfo v).opa = r.opa := rfl
@[simp] theorem Regs.setFaultInfo_opb (r : Regs) (v : Word) : (r.setFaultInfo v).opb = r.opb := rfl
@[simp] theorem Regs.setFaultInfo_niter (r : Regs) (v : Word) : (r.setFaultInfo v).niter = r.niter := rfl
@[simp] theorem Regs.setFaultInfo_idx (r : Regs) (v : Word) : (r.setFaultInfo v).idx = r.idx := rfl
@[simp] theorem Regs.setFaultInfo_faultInfo (r : Regs) (v : Word) : (r.setFaultInfo v).faultInfo = v := rfl
@[simp] theorem State.setRegs_regs (s : State) (v : Regs) : (s.setRegs v).regs = v := rfl
@[simp] theorem State.setRegs_platform (s : State) (v : Regs) : (s.setRegs v).platform = s.platform := rfl
@[simp] theorem State.setRegs_mem (s : State) (v : Regs) : (s.setRegs v).mem = s.mem := rfl
@[simp] theorem State.setRegs_pending (s : State) (v : Regs) : (s.setRegs v).pending = s.pending := rfl
@[simp] theorem State.setRegs_reply (s : State) (v : Regs) : (s.setRegs v).reply = s.reply := rfl
@[simp] theorem State.setRegs_reads (s : State) (v : Regs) : (s.setRegs v).reads = s.reads := rfl
@[simp] theorem State.setMem_regs (s : State) (v : Memory) : (s.setMem v).regs = s.regs := rfl
@[simp] theorem State.setMem_platform (s : State) (v : Memory) : (s.setMem v).platform = s.platform := rfl
@[simp] theorem State.setMem_mem (s : State) (v : Memory) : (s.setMem v).mem = v := rfl
@[simp] theorem State.setMem_pending (s : State) (v : Memory) : (s.setMem v).pending = s.pending := rfl
@[simp] theorem State.setMem_reply (s : State) (v : Memory) : (s.setMem v).reply = s.reply := rfl
@[simp] theorem State.setMem_reads (s : State) (v : Memory) : (s.setMem v).reads = s.reads := rfl
@[simp] theorem State.setPending_regs (s : State) (v : List Event) : (s.setPending v).regs = s.regs := rfl
@[simp] theorem State.setPending_platform (s : State) (v : List Event) : (s.setPending v).platform = s.platform := rfl
@[simp] theorem State.setPending_mem (s : State) (v : List Event) : (s.setPending v).mem = s.mem := rfl
@[simp] theorem State.setPending_pending (s : State) (v : List Event) : (s.setPending v).pending = v := rfl
@[simp] theorem State.setPending_reply (s : State) (v : List Event) : (s.setPending v).reply = s.reply := rfl
@[simp] theorem State.setPending_reads (s : State) (v : List Event) : (s.setPending v).reads = s.reads := rfl
@[simp] theorem State.setReply_regs (s : State) (v : Option Word) : (s.setReply v).regs = s.regs := rfl
@[simp] theorem State.setReply_platform (s : State) (v : Option Word) : (s.setReply v).platform = s.platform := rfl
@[simp] theorem State.setReply_mem (s : State) (v : Option Word) : (s.setReply v).mem = s.mem := rfl
@[simp] theorem State.setReply_pending (s : State) (v : Option Word) : (s.setReply v).pending = s.pending := rfl
@[simp] theorem State.setReply_reply (s : State) (v : Option Word) : (s.setReply v).reply = v := rfl
@[simp] theorem State.setReply_reads (s : State) (v : Option Word) : (s.setReply v).reads = s.reads := rfl
@[simp] theorem State.setReads_regs (s : State) (v : List Word) : (s.setReads v).regs = s.regs := rfl
@[simp] theorem State.setReads_platform (s : State) (v : List Word) : (s.setReads v).platform = s.platform := rfl
@[simp] theorem State.setReads_mem (s : State) (v : List Word) : (s.setReads v).mem = s.mem := rfl
@[simp] theorem State.setReads_pending (s : State) (v : List Word) : (s.setReads v).pending = s.pending := rfl
@[simp] theorem State.setReads_reply (s : State) (v : List Word) : (s.setReads v).reply = s.reply := rfl
@[simp] theorem State.setReads_reads (s : State) (v : List Word) : (s.setReads v).reads = v := rfl

end Sys2Proof.Machine
end

