-- ==== Sys2Proof/Laws/Ops.lean ====
section
/-! SUPPORT. What the shared operations on the registers do, once for each: the status reset, recording an error, marking
completion, dropping a write, and the busy rule. -/

namespace Sys2Proof.Machine

theorem statusReset_eq (r : Regs) :
    statusReset r =
      { r with faultInfo := 0, status := { r.status with done := false, err := false, cause := .none } } := rfl

theorem raiseError_eq (c : Cause) (info : Word) (r : Regs) :
    raiseError c info r =
      { r with faultInfo := info,
               status := { r.status with busy := false, done := false, err := true, cause := c } } := rfl

theorem markDone_eq (r : Regs) : markDone r = { r with status := { r.status with done := true } } := rfl

theorem dropWrite_eq (r : Regs) : dropWrite r = { r with status := { r.status with ovr := true } } := rfl

theorem unlessBusy_busy {r : Regs} (h : r.status.busy = true) (act : Regs → Regs) :
    unlessBusy act r = dropWrite r := by simp [unlessBusy, h]

theorem unlessBusy_idle {r : Regs} (h : r.status.busy = false) (act : Regs → Regs) : unlessBusy act r = act r := by
  simp [unlessBusy, h]

/-- A command write either is dropped (BUSY = 1) or has its accepted effect (BUSY = 0); it always takes a next state,
and changes registers only. -/
theorem acceptCommand_cases {act : Regs → Regs} {s t : State} (h : acceptCommand act s = .next t) :
    (s.regs.status.busy = true ∧ t = s.setRegs (dropWrite s.regs)) ∨
    (s.regs.status.busy = false ∧ t = s.setRegs (act s.regs)) := by
  simp only [acceptCommand, Host.Outcome.next.injEq] at h
  subst h
  cases hb : s.regs.status.busy
  · exact .inr ⟨rfl, by rw [unlessBusy_idle hb]⟩
  · exact .inl ⟨rfl, by rw [unlessBusy_busy hb]⟩

theorem acceptCommand_idle {s : State} (h : s.regs.status.busy = false) (act : Regs → Regs) :
    acceptCommand act s = .next (s.setRegs (act s.regs)) := by rw [acceptCommand, unlessBusy_idle h]

theorem acceptCommand_busy {s : State} (h : s.regs.status.busy = true) (act : Regs → Regs) :
    acceptCommand act s = .next (s.setRegs (dropWrite s.regs)) := by rw [acceptCommand, unlessBusy_busy h]

end Sys2Proof.Machine
end

