-- ==== Sys2Proof/Laws/Commands.lean ====
section
/-! SUPPORT. What each command can do to the registers, said once: the meanings as command writes, and the five ways
an accepted RUN can go. -/

namespace Sys2Proof.Machine

/-- The accepted effect of each command on the registers. -/
def acceptedRegs : Instr → Regs → Regs
  | .nop => fun r => r
  | .clear => clearRegs
  | .step => stepRegs
  | .run => runRegs

theorem exec_eq (i : Instr) (s : State) : exec i s = acceptCommand (acceptedRegs i) s := by cases i <;> rfl

/-- A command write always takes a next state; it is dropped while BUSY is 1 and accepted otherwise. -/
theorem exec_cases {i : Instr} {s t : State} (h : exec i s = .next t) :
    (s.regs.status.busy = true ∧ t = s.setRegs (dropWrite s.regs)) ∨
    (s.regs.status.busy = false ∧ t = s.setRegs (acceptedRegs i s.regs)) :=
  acceptCommand_cases (exec_eq i s ▸ h)

theorem clearRegs_eq (r : Regs) :
    clearRegs r =
      { r with acc := 0, niter := 0, idx := 0, faultInfo := 0,
               status := { busy := r.status.busy, done := true, err := false, ovr := false, cause := .none } } := rfl

theorem stepRegs_eq (r : Regs) :
    stepRegs r =
      { r with acc := accumulate r.acc r.opa r.opb, faultInfo := 0,
               status := { r.status with done := true, err := false, cause := .none } } := rfl

theorem illegalRegs_eq (c : Word) (r : Regs) :
    illegalRegs c r =
      { r with faultInfo := c,
               status := { r.status with busy := false, done := false, err := true, cause := .illegalCmd } } := rfl

/-- The registers an accepted RUN starts from, with word count `n` (R125). -/
def runPrepared (n : Nat) (r : Regs) : Regs :=
  { r with acc := 0, idx := 0, niter := BitVec.ofNat 64 n, faultInfo := 0,
           status := { r.status with done := false, err := false, cause := .none } }

/-- An accepted RUN goes one of five ways: a negative K, an empty run, a misaligned X_BASE, a misaligned Y_BASE, or the
start of the engine. -/
theorem runRegs_cases (r : Regs) :
    (sint64 r.k < 0 ∧ runRegs r = raiseError .negK r.k (runPrepared 0 r)) ∨
    (0 ≤ sint64 r.k ∧ niterOf (sint64 r.k).toNat = 0 ∧ runRegs r = markDone (runPrepared 0 r)) ∨
    (0 ≤ sint64 r.k ∧ niterOf (sint64 r.k).toNat ≠ 0 ∧ aligned8 r.xBase = false ∧
      runRegs r = raiseError .misaligned r.xBase (runPrepared (niterOf (sint64 r.k).toNat) r)) ∨
    (0 ≤ sint64 r.k ∧ niterOf (sint64 r.k).toNat ≠ 0 ∧ aligned8 r.xBase = true ∧ aligned8 r.yBase = false ∧
      runRegs r = raiseError .misaligned r.yBase (runPrepared (niterOf (sint64 r.k).toNat) r)) ∨
    (0 ≤ sint64 r.k ∧ niterOf (sint64 r.k).toNat ≠ 0 ∧ aligned8 r.xBase = true ∧ aligned8 r.yBase = true ∧
      runRegs r =
        { runPrepared (niterOf (sint64 r.k).toNat) r with
          status := { r.status with busy := true, done := false, err := false, cause := .none } }) := by
  have hk : ((((statusReset r).setAcc 0).setIdx 0).setNiter 0).k = r.k := rfl
  by_cases h : sint64 r.k < 0
  · refine .inl ⟨h, ?_⟩
    rw [runRegs, hk, if_pos h]; rfl
  have h0 : 0 ≤ sint64 r.k := by omega
  have hr : runRegs r = runCounted (sint64 r.k).toNat ((((statusReset r).setAcc 0).setIdx 0).setNiter 0) := by
    rw [runRegs, hk, if_neg h]
  by_cases hn : niterOf (sint64 r.k).toNat = 0
  · refine .inr (.inl ⟨h0, hn, ?_⟩)
    rw [hr, runCounted, if_pos hn, hn]; rfl
  cases hx : aligned8 r.xBase
  · refine .inr (.inr (.inl ⟨h0, hn, rfl, ?_⟩))
    rw [hr, runCounted, if_neg hn, if_pos (by simpa [statusReset] using hx)]; rfl
  cases hy : aligned8 r.yBase
  · refine .inr (.inr (.inr (.inl ⟨h0, hn, rfl, rfl, ?_⟩)))
    rw [hr, runCounted, if_neg hn, if_neg (by simpa [statusReset] using hx), if_pos (by simpa [statusReset] using hy)]
    rfl
  · refine .inr (.inr (.inr (.inr ⟨h0, hn, rfl, rfl, ?_⟩)))
    rw [hr, runCounted, if_neg hn, if_neg (by simpa [statusReset] using hx), if_neg (by simpa [statusReset] using hy)]
    rfl

end Sys2Proof.Machine
end

