-- ==== Sys2Proof/Laws/Memory.lean ====
section
/-! SUPPORT. The memory: a read after a write, the frame of a write, and that every memory operation keeps the canonical
form; what one read of the memory port can answer. -/

namespace Sys2Proof.Machine

theorem memGet_of_lt {lo a : Nat} {m : Memory} (h : memWfFrom lo m = true) (ha : a < lo) :
    memGet m a = Config.unwritten := by
  induction m generalizing lo with
  | nil => rfl
  | cons c m ih =>
    obtain ⟨a', b'⟩ := c
    simp only [memWfFrom, Bool.and_eq_true, decide_eq_true_eq] at h
    obtain ⟨⟨⟨h1, -⟩, -⟩, h4⟩ := h
    rw [memGet, if_neg (by omega)]
    exact ih h4 (by omega)

theorem memWfFrom_mono {lo lo' : Nat} {m : Memory} (h : memWfFrom lo m = true) (hl : lo' ≤ lo) :
    memWfFrom lo' m = true := by
  cases m with
  | nil => rfl
  | cons c m =>
    simp only [memWfFrom, Bool.and_eq_true, decide_eq_true_eq] at *
    exact ⟨⟨⟨by omega, h.1.1.2⟩, h.1.2⟩, h.2⟩

theorem memGet_memSet_same {lo : Nat} {m : Memory} (h : memWfFrom lo m = true) (a : Nat) (b : Byte) :
    memGet (memSet m a b) a = b := by
  induction m generalizing lo with
  | nil => simp only [memSet]; split <;> simp_all [memGet]
  | cons c m ih =>
    obtain ⟨a', b'⟩ := c
    simp only [memWfFrom, Bool.and_eq_true, decide_eq_true_eq] at h
    obtain ⟨⟨⟨-, -⟩, -⟩, h4⟩ := h
    simp only [memSet]
    split
    · split
      · rw [memGet, if_neg (by omega), memGet_of_lt h4 (by omega)]; simp_all
      · simp [memGet]
    · split
      · split
        · rw [memGet_of_lt h4 (by omega)]; simp_all
        · simp [memGet]
      · rw [memGet, if_neg (by omega)]; exact ih h4

theorem memGet_memSet_other (m : Memory) {a a' : Nat} (b : Byte) (h : a' ≠ a) :
    memGet (memSet m a b) a' = memGet m a' := by
  induction m with
  | nil => simp only [memSet]; split <;> simp [memGet, h]
  | cons c m ih =>
    obtain ⟨x, y⟩ := c
    simp only [memSet]
    split
    · split <;> simp [memGet, h]
    · split
      · subst_vars
        split <;> simp [memGet, h]
      · simp [memGet, ih]

theorem memSet_wfFrom {lo a : Nat} {m : Memory} (h : memWfFrom lo m = true) (hlo : lo ≤ a) (ha : a < Config.memSpace)
    (b : Byte) : memWfFrom lo (memSet m a b) = true := by
  induction m generalizing lo with
  | nil =>
    simp only [memSet]
    split
    · rfl
    · simp_all [memWfFrom]
  | cons c m ih =>
    obtain ⟨x, y⟩ := c
    simp only [memWfFrom, Bool.and_eq_true, decide_eq_true_eq] at h
    obtain ⟨⟨⟨h1, h2⟩, h3⟩, h4⟩ := h
    simp only [memSet]
    split
    · split <;> simp_all [memWfFrom]
    · split
      · subst_vars
        split
        · exact memWfFrom_mono h4 (by omega)
        · simp_all [memWfFrom]
      · have := ih h4 (by omega)
        simp_all [memWfFrom]

theorem memSet_wf {m : Memory} (h : m.wf = true) {a : Nat} (ha : a < Config.memSpace) (b : Byte) :
    Memory.wf (memSet m a b) = true :=
  memSet_wfFrom h (Nat.zero_le _) ha b

theorem memSetBytes_wf (bs : List Byte) {m : Memory} (h : m.wf = true) (a : Word) :
    Memory.wf (memSetBytes bs m a) = true := by
  induction bs generalizing m a with
  | nil => exact h
  | cons b bs ih => exact ih (memSet_wf h a.isLt b) _

theorem landWrite_wf {m : Memory} (h : m.wf = true) (w : MemWrite) : Memory.wf (landWrite m w) = true :=
  memSetBytes_wf _ h _

theorem landWrites_wf {m : Memory} (h : m.wf = true) (ws : List MemWrite) : Memory.wf (landWrites m ws) = true := by
  induction ws generalizing m with
  | nil => exact h
  | cons w ws ih => exact ih (landWrite_wf h w)

theorem memGet_memSetBytes_other (bs : List Byte) (m : Memory) (a : Word) {x : Word}
    (h : ∀ j < bs.length, a + BitVec.ofNat 64 j ≠ x) : memGet (memSetBytes bs m a) x.toNat = memGet m x.toNat := by
  induction bs generalizing m a with
  | nil => rfl
  | cons b bs ih =>
    rw [memSetBytes, ih]
    · refine memGet_memSet_other m b fun hx => ?_
      exact h 0 (by simp) (by simpa using (BitVec.eq_of_toNat_eq hx).symm)
    · intro j hj hx
      refine h (j + 1) (by simpa using hj) ?_
      rw [← hx, BitVec.add_assoc]
      congr 1
      apply BitVec.eq_of_toNat_eq
      simp; omega

theorem overlapsWindow_iff {p : Platform} {a : Word} :
    overlapsWindow p a = true ↔ ∃ j < 8, p.blockBase ≤ a.toNat + j ∧ a.toNat + j < p.blockBase + 0x80 := by
  simp [overlapsWindow]

theorem memAdmit_eq_false_of_window {p : Platform} {a : Word} (h : overlapsWindow p a = true) :
    memAdmit p a = false := by
  simp [memAdmit, h]

/-- The memory port answers a word exactly at an aligned address the platform admits, `BusErr` exactly at an aligned
one it refuses. -/
theorem memRead_cases (s : State) (a : Word) :
    (aligned8 a = true ∧ memAdmit s.platform a = true ∧ memRead s a = .word (memWord s.mem a)) ∨
    (aligned8 a = true ∧ memAdmit s.platform a = false ∧ memRead s a = .busErr) ∨
    (aligned8 a = false ∧ memRead s a = .noMeaning) := by
  unfold memRead
  cases aligned8 a <;> cases memAdmit s.platform a <;> simp

theorem memRead_word {s : State} {a : Word} (h : aligned8 a = true) (ha : memAdmit s.platform a = true) :
    memRead s a = .word (memWord s.mem a) := by simp [memRead, h, ha]

theorem memRead_busErr {s : State} {a : Word} (h : aligned8 a = true) (ha : memAdmit s.platform a = false) :
    memRead s a = .busErr := by simp [memRead, h, ha]

theorem memRead_noMeaning {s : State} {a : Word} (h : aligned8 a = false) : memRead s a = .noMeaning := by
  simp [memRead, h]

end Sys2Proof.Machine
end

