-- ==== Sys2Proof/Laws/Engine.lean ====
section
/-! SUPPORT. What an engine turn can do, said once. -/

namespace Sys2Proof.Machine

theorem engineBusError_eq (a : Word) (r : Regs) :
    engineBusError a r =
      { r with acc := 0, faultInfo := a,
               status := { r.status with busy := false, done := false, err := true, cause := .busError } } := rfl

theorem enginePair_eq (vx vy : Word) (r : Regs) :
    enginePair vx vy r =
      { r with acc := accumulate r.acc vx vy, idx := BitVec.ofNat 64 (r.idx.toNat + 1),
               status := if r.idx.toNat + 1 = r.niter.toNat then { r.status with busy := false, done := true }
                 else r.status } := by
  simp only [enginePair, pairStatus, Regs.setStatus, Regs.setIdx, Regs.setAcc, Status.setBusy, Status.setDone]

section
variable {ws : List MemWrite} {s t : State}

/-- The engine step as one chain of checks: the x address aligned and admitted, then the y address. -/
theorem enginePairStep_eq (ws : List MemWrite) (i : Nat) (s : State) :
    enginePairStep ws i s =
      if aligned8 (addrX s.regs i) = false then .fault .misalignedRead
      else if memAdmit s.platform (addrX s.regs i) = false then
        .next { s with mem := landWrites s.mem ws, reads := s.reads ++ [addrX s.regs i],
                       regs := engineBusError (addrX s.regs i) s.regs }
      else if aligned8 (addrY s.regs i) = false then .fault .misalignedRead
      else if memAdmit s.platform (addrY s.regs i) = false then
        .next { s with mem := landWrites s.mem ws, reads := s.reads ++ [addrX s.regs i] ++ [addrY s.regs i],
                       regs := engineBusError (addrY s.regs i) s.regs }
      else
        .next { s with mem := landWrites s.mem ws, reads := s.reads ++ [addrX s.regs i] ++ [addrY s.regs i],
                       regs := enginePair (memWord s.mem (addrX s.regs i))
                         (memWord (landWrites s.mem ws) (addrY s.regs i)) s.regs } := by
  have hp : (afterReadX (addrX s.regs i) ws s).platform = s.platform := rfl
  unfold enginePairStep engineReadY memRead
  rw [hp]
  cases aligned8 (addrX s.regs i) <;> cases memAdmit s.platform (addrX s.regs i) <;>
    cases aligned8 (addrY s.regs i) <;> cases memAdmit s.platform (addrY s.regs i) <;> rfl

theorem engineTurn_idle (h : s.regs.status.busy = false) : engineTurn ws s = .next (s.setMem (landWrites s.mem ws)) := by
  simp [engineTurn, h]

theorem engineTurn_busy (h : s.regs.status.busy = true) :
    engineTurn ws s = enginePairStep ws s.regs.idx.toNat s := by
  simp [engineTurn, engineStep, h]

/-- What an engine turn leaves of the registers, read against the memory before (`m`) and after (`m'`) the writes of
other agents landed. -/
inductive EngineEffect (p : Platform) (m m' : Memory) (r : Regs) : List Word → Regs → Prop
  | idle (h : r.status.busy = false) : EngineEffect p m m' r [] r
  | pair (h : r.status.busy = true) (hx : memAdmit p (addrX r r.idx.toNat) = true)
      (hy : memAdmit p (addrY r r.idx.toNat) = true) :
      EngineEffect p m m' r [addrX r r.idx.toNat, addrY r r.idx.toNat]
        (enginePair (memWord m (addrX r r.idx.toNat)) (memWord m' (addrY r r.idx.toNat)) r)
  | busErrorX (h : r.status.busy = true) (hx : memAdmit p (addrX r r.idx.toNat) = false) :
      EngineEffect p m m' r [addrX r r.idx.toNat] (engineBusError (addrX r r.idx.toNat) r)
  | busErrorY (h : r.status.busy = true) (hx : memAdmit p (addrX r r.idx.toNat) = true)
      (hy : memAdmit p (addrY r r.idx.toNat) = false) :
      EngineEffect p m m' r [addrX r r.idx.toNat, addrY r r.idx.toNat] (engineBusError (addrY r r.idx.toNat) r)

/-- An engine turn that answers a next state: other agents' writes land, the addresses read stand on the port and are
multiples of 8, and the registers are those of one of the four effects. -/
theorem engineTurn_cases (h : engineTurn ws s = .next t) :
    ∃ as r, EngineEffect s.platform s.mem (landWrites s.mem ws) s.regs as r ∧ (∀ a ∈ as, aligned8 a = true) ∧
      t = { s with mem := landWrites s.mem ws, reads := s.reads ++ as, regs := r } := by
  cases hb : s.regs.status.busy
  · rw [engineTurn_idle hb] at h
    cases h
    exact ⟨[], _, .idle hb, by simp, by simp [State.setMem]⟩
  rw [engineTurn_busy hb, enginePairStep_eq] at h
  split at h
  · cases h
  rename_i hx
  simp only [Bool.not_eq_false] at hx
  split at h
  · rename_i hax
    cases h
    exact ⟨_, _, .busErrorX hb hax, by simp [hx], rfl⟩
  rename_i hax
  simp only [Bool.not_eq_false] at hax
  split at h
  · cases h
  rename_i hy
  simp only [Bool.not_eq_false] at hy
  split at h
  · rename_i hay
    cases h
    exact ⟨_, _, .busErrorY hb hax hay, by simp [hx, hy], by simp⟩
  · rename_i hay
    simp only [Bool.not_eq_false] at hay
    cases h
    exact ⟨_, _, .pair hb hax hay, by simp [hx, hy], by simp⟩

/-- An engine turn is never refused, and faults only when it would read a misaligned address. -/
theorem engineTurn_fault {f : Fault} (h : engineTurn ws s = .fault f) :
    s.regs.status.busy = true ∧
      (aligned8 (addrX s.regs s.regs.idx.toNat) = false ∨ aligned8 (addrY s.regs s.regs.idx.toNat) = false) := by
  cases hb : s.regs.status.busy
  · rw [engineTurn_idle hb] at h; cases h
  rw [engineTurn_busy hb, enginePairStep_eq] at h
  refine ⟨rfl, ?_⟩
  split at h
  · rename_i hx; exact .inl hx
  split at h
  · cases h
  split at h
  · rename_i hy; exact .inr hy
  split at h <;> cases h

end

end Sys2Proof.Machine
end

