-- ==== Sys2Proof/Laws/PerInstr.lean ====
section
/-! SUPPORT. The per-instruction family `Encoded`: an instruction is well formed, and the fields of its word are those
R71 and R73 give it. -/

namespace Sys2Proof.Laws.Encoded

/-- The instruction is well formed and so is its word: RSV is zero and OP is one of the four values. -/
def Statement (i : Instr) : Prop :=
  i.wf = true ∧ wordWf (encode i) = true ∧ rsvField (encode i) = 0 ∧ (opField (encode i)).toNat < 4

theorem nop : Statement .nop := by unfold Statement; decide

theorem clear : Statement .clear := by unfold Statement; decide

theorem step : Statement .step := by unfold Statement; decide

theorem run : Statement .run := by unfold Statement; decide

end Sys2Proof.Laws.Encoded
end

