-- ==== Sys2Proof/Laws/Port.lean ====
section
/-! SUPPORT. What a host access and a turn can do, said once. -/

namespace Sys2Proof.Machine

theorem accessOffset_eq_some {p : Platform} {width addr off : Nat} :
    accessOffset p width addr = some off ↔
      width = 64 ∧ p.blockBase ≤ addr ∧ (addr - p.blockBase) % 8 = 0 ∧ addr - p.blockBase < 0x80 ∧
        off = addr - p.blockBase := by
  unfold accessOffset
  split
  · rename_i h; simp_all [eq_comm]
  · rename_i h; simp only [reduceCtorEq, false_iff]; intro hc; exact h ⟨hc.1, hc.2.1, hc.2.2.1, hc.2.2.2.1⟩

@[simp] theorem accessOffset_base_add (p : Platform) {off : Nat} (h8 : off % 8 = 0) (h : off < 0x80) :
    accessOffset p 64 (p.blockBase + off) = some off :=
  accessOffset_eq_some.mpr ⟨rfl, by omega, by rwa [Nat.add_sub_cancel_left], by rwa [Nat.add_sub_cancel_left],
    by omega⟩

theorem commandWrite_cases {c : Word} {s t : State} (h : commandWrite c s = .next t) :
    (s.regs.status.busy = true ∧ t = s.setRegs (dropWrite s.regs)) ∨
    (s.regs.status.busy = false ∧ ∃ i, decode c = .command i ∧ t = s.setRegs (acceptedRegs i s.regs)) ∨
    (s.regs.status.busy = false ∧ ∃ c', decode c = .illegal c' ∧ t = s.setRegs (illegalRegs c' s.regs)) := by
  unfold commandWrite at h
  split at h
  · rename_i i hd
    rcases exec_cases h with h | ⟨hb, h⟩
    · exact .inl h
    · exact .inr (.inl ⟨hb, i, hd, h⟩)
  · rename_i c' hd
    rcases acceptCommand_cases h with h | ⟨hb, h⟩
    · exact .inl h
    · exact .inr (.inr ⟨hb, c', hd, h⟩)

/-- The registers an admitted host write leaves: those it found; those with OVR set; an operand register written; or the
effect of a command. -/
inductive PortWriteEffect (slot : Option RegName) (v : Word) (r : Regs) : Regs → Prop
  | ignored : PortWriteEffect slot v r r
  | dropped (h : r.status.busy = true) (hs : slot = some .cmd ∨ slot = some .xBase ∨ slot = some .yBase ∨ slot = some .k) :
      PortWriteEffect slot v r (dropWrite r)
  | xBase (hs : slot = some .xBase) (h : r.status.busy = false) : PortWriteEffect slot v r (r.setXBase v)
  | yBase (hs : slot = some .yBase) (h : r.status.busy = false) : PortWriteEffect slot v r (r.setYBase v)
  | k (hs : slot = some .k) (h : r.status.busy = false) : PortWriteEffect slot v r (r.setK v)
  | opa (hs : slot = some .opa) : PortWriteEffect slot v r (r.setOpa v)
  | opb (hs : slot = some .opb) : PortWriteEffect slot v r (r.setOpb v)
  | command (hs : slot = some .cmd) (h : r.status.busy = false) (i : Instr) (hd : decode v = .command i) :
      PortWriteEffect slot v r (acceptedRegs i r)
  | illegal (hs : slot = some .cmd) (h : r.status.busy = false) (c : Word) (hd : decode v = .illegal c) :
      PortWriteEffect slot v r (illegalRegs c r)

theorem portWrite_cases {slot : Option RegName} {v : Word} {s t : State} (h : portWrite slot v s = .next t) :
    ∃ r, PortWriteEffect slot v s.regs r ∧ t = s.setRegs r := by
  have operand : ∀ (act : Regs → Regs), (s.regs.status.busy = false → PortWriteEffect slot v s.regs (act s.regs)) →
      (s.regs.status.busy = true → PortWriteEffect slot v s.regs (dropWrite s.regs)) →
      ∃ r, PortWriteEffect slot v s.regs r ∧ s.setRegs (unlessBusy act s.regs) = s.setRegs r := by
    intro act hi hd
    cases hb : s.regs.status.busy
    · exact ⟨_, hi hb, by rw [unlessBusy_idle hb]⟩
    · exact ⟨_, hd hb, by rw [unlessBusy_busy hb]⟩
  unfold portWrite at h
  split at h
  · rcases commandWrite_cases h with ⟨hb, ht⟩ | ⟨hb, i, hd, ht⟩ | ⟨hb, c, hd, ht⟩
    · exact ⟨_, .dropped hb (.inl rfl), ht⟩
    · exact ⟨_, .command rfl hb i hd, ht⟩
    · exact ⟨_, .illegal rfl hb c hd, ht⟩
  · obtain ⟨r, h1, h2⟩ := operand (fun r => r.setXBase v) (fun hb => .xBase rfl hb) (fun hb => .dropped hb (by simp))
    exact ⟨r, h1, by rw [← h2]; simpa using h.symm⟩
  · obtain ⟨r, h1, h2⟩ := operand (fun r => r.setYBase v) (fun hb => .yBase rfl hb) (fun hb => .dropped hb (by simp))
    exact ⟨r, h1, by rw [← h2]; simpa using h.symm⟩
  · obtain ⟨r, h1, h2⟩ := operand (fun r => r.setK v) (fun hb => .k rfl hb) (fun hb => .dropped hb (by simp))
    exact ⟨r, h1, by rw [← h2]; simpa using h.symm⟩
  · exact ⟨_, .opa rfl, by simpa using h.symm⟩
  · exact ⟨_, .opb rfl, by simpa using h.symm⟩
  all_goals exact ⟨_, .ignored, by cases h; rfl⟩

theorem hostAccess_cases {a : HostAccess} {s t : State} (h : hostAccess a s = .next t) :
    (∃ width addr off, a = .read width addr ∧ accessOffset s.platform width addr = some off ∧
      t = s.setReply (some (portRead (regAt off) s.regs))) ∨
    (∃ width addr off v r, a = .write width addr v ∧ accessOffset s.platform width addr = some off ∧
      PortWriteEffect (regAt off) v s.regs r ∧ t = s.setRegs r) := by
  unfold hostAccess at h
  cases a with
  | read width addr =>
    dsimp only at h
    split at h
    · rename_i off ho
      exact .inl ⟨width, addr, off, rfl, ho, by simpa using h.symm⟩
    · cases h
  | write width addr v =>
    dsimp only at h
    split at h
    · rename_i off ho
      obtain ⟨r, hr, ht⟩ := portWrite_cases h
      exact .inr ⟨width, addr, off, v, r, rfl, ho, hr, ht⟩
    · cases h

theorem portWrite_not_fault (slot : Option RegName) (v : Word) (s : State) (f : Fault) :
    portWrite slot v s ≠ .fault f := by
  unfold portWrite
  split
  · unfold commandWrite
    split
    · rw [exec_eq]; exact fun h => by cases h
    · exact fun h => by cases h
  all_goals exact fun h => by cases h

theorem hostAccess_not_fault (a : HostAccess) (s : State) (f : Fault) : hostAccess a s ≠ .fault f := by
  unfold hostAccess
  cases a with
  | read width addr => dsimp only; split <;> exact fun h => by cases h
  | write width addr v =>
    dsimp only
    split
    · exact portWrite_not_fault _ _ _ _
    · exact fun h => by cases h

end Sys2Proof.Machine
end

