-- ==== Sys2Proof/Laws/Step.lean ====
section
/-! SUPPORT. What a step can do: it takes the first pending turn, or the engine's when none is pending. -/

namespace Sys2Proof.Machine

@[simp] theorem clearPorts_eq (s : State) : clearPorts s = { s with reply := none, reads := [] } := rfl

/-- The state in which the next turn acts: the turn taken off the list, nothing on the ports. -/
def turnTaken (s : State) (rest : List Event) : State := { s with pending := rest, reply := none, reads := [] }

@[simp] theorem turnTaken_regs (s : State) (rest : List Event) : (turnTaken s rest).regs = s.regs := rfl
@[simp] theorem turnTaken_platform (s : State) (rest : List Event) : (turnTaken s rest).platform = s.platform := rfl
@[simp] theorem turnTaken_mem (s : State) (rest : List Event) : (turnTaken s rest).mem = s.mem := rfl
@[simp] theorem turnTaken_pending (s : State) (rest : List Event) : (turnTaken s rest).pending = rest := rfl
@[simp] theorem turnTaken_reply (s : State) (rest : List Event) : (turnTaken s rest).reply = none := rfl
@[simp] theorem turnTaken_reads (s : State) (rest : List Event) : (turnTaken s rest).reads = [] := rfl

theorem step_nil {s : State} (h : s.pending = []) : step s = engineTurn [] (turnTaken s []) := by
  rw [step, takeTurn, h]
  simp only [turnTaken, ← h]
  rfl

theorem step_cons {s : State} {e : Event} {rest : List Event} (h : s.pending = e :: rest) :
    step s = takeEvent e (turnTaken s rest) := by
  rw [step, takeTurn, h]
  rfl

/-- A step that answers a next state: the default engine turn, a host access, an engine turn, a memory write or a
reset, on the state with the turn taken. -/
theorem step_cases {s t : State} (h : step s = .next t) :
    (s.pending = [] ∧ engineTurn [] (turnTaken s []) = .next t) ∨
    (∃ e rest, s.pending = e :: rest ∧
      ((∃ a, e = .host a ∧ hostAccess a (turnTaken s rest) = .next t) ∨
       (∃ ws, e = .engine ws ∧ engineTurn ws (turnTaken s rest) = .next t) ∨
       (∃ w, e = .memory w ∧ t = (turnTaken s rest).setMem (landWrite s.mem w)) ∨
       (e = .reset ∧ t = (turnTaken s rest).setRegs Regs.reset))) := by
  cases hp : s.pending with
  | nil => exact .inl ⟨rfl, by rw [← step_nil hp]; exact h⟩
  | cons e rest =>
    rw [step_cons hp] at h
    refine .inr ⟨e, rest, rfl, ?_⟩
    cases e with
    | host a => exact .inl ⟨a, rfl, h⟩
    | engine ws => exact .inr (.inl ⟨ws, rfl, h⟩)
    | memory w => exact .inr (.inr (.inl ⟨w, rfl, by simpa [takeEvent] using h.symm⟩))
    | reset => exact .inr (.inr (.inr ⟨rfl, by simpa [takeEvent, resetBlock] using h.symm⟩))

end Sys2Proof.Machine
end

