-- ==== Sys2Proof/Tests/Slice0.lean ====
section
/-! SUPPORT. Tests of one step each, their expected results from 95_test_vectors.md or the spec's encodings, and for
every statement with hypotheses a concrete state and operands that meet them. -/

namespace Sys2Proof.Tests

open Sys2Proof Sys2Proof.Machine

/-! ## Well-formedness and decoding -/

/-- Bit 4 set beside OP = RUN: RSV is not zero (95_test_vectors.md section 3). -/
theorem test_wf_refuses_reserved_bit : wordReservedZero 0x13 = false ∧ wordOpKnown 0x13 = true ∧ wordWf 0x13 = false := by
  decide

/-- OP = 0x4 beside a zero RSV. -/
theorem test_wf_refuses_unknown_op : wordOpKnown 0x4 = false ∧ wordReservedZero 0x4 = true ∧ wordWf 0x4 = false := by decide

theorem test_wf_accepts_the_four_commands : wordWf 0 = true ∧ wordWf 1 = true ∧ wordWf 2 = true ∧ wordWf 3 = true := by decide

/-- RSV is the 60 zero bits 63:4, OP the bits 3:0 (R71), written out; OP = 0b0000 is NOP (R73). -/
theorem test_decode_nop_word :
    decode 0b0000000000000000000000000000000000000000000000000000000000000000 = .command .nop := by decide

theorem test_decode_clear_word :
    decode 0b0000000000000000000000000000000000000000000000000000000000000001 = .command .clear := by decide

theorem test_decode_step_word :
    decode 0b0000000000000000000000000000000000000000000000000000000000000010 = .command .step := by decide

theorem test_decode_run_word :
    decode 0b0000000000000000000000000000000000000000000000000000000000000011 = .command .run := by decide

/-- OP = RUN with bit 63 set is illegal (R74), not RUN. -/
theorem test_decode_illegal_word :
    decode 0b1000000000000000000000000000000000000000000000000000000000000011 = .illegal 0x8000000000000003 := by decide

/-- The match values of the opcode table. -/
theorem test_table_words :
    decodeTableWord 64 0x0 = some .nop ∧ decodeTableWord 64 0x1 = some .clear ∧ decodeTableWord 64 0x2 = some .step ∧
    decodeTableWord 64 0x3 = some .run ∧ decodeTableWord 64 0x13 = none := by decide

/-! ## States and steps -/

/-- The state a step answers, if it answers one. -/
def after (s : State) : State :=
  match step s with
  | .next t => t
  | .fault _ => s
  | .refused _ => s

/-- A step answers a next state. -/
def stepsOn (s : State) : Bool :=
  match step s with
  | .next _ => true
  | .fault _ => false
  | .refused _ => false

/-- A step is refused because R150 does not admit the access. -/
def stepsRefused (s : State) : Bool :=
  match step s with
  | .next _ => false
  | .fault _ => false
  | .refused q => q == .accessNotAdmitted

theorem step_after {s : State} (h : stepsOn s = true) : step s = .next (after s) := by
  unfold stepsOn at h
  unfold after
  split at h <;> simp_all

/-- The state after reset with some registers, some turns and a memory of words. -/
def setup (r : Regs) (es : List Event) (ws : List (Word × Word)) : State :=
  ((State.reset.setRegs r).setPending es).setMem (ws.foldl (fun m w => memSetBytes (wordBytes w.2) m w.1) [])

/-- One command written to CMD of the block with registers `r`, and the registers it leaves. -/
def onCommand (c : Word) (r : Regs) : Regs := (after (setup r [cmdWrite Platform.reset c] [])).regs

/-- The host's STATUS, FAULT_INFO and ACC after a command. -/
def shown (r : Regs) : Word × Word × Word := (statusWord r.status, r.faultInfo, r.acc)

/-- C-NOP: an accepted NOP keeps the recorded NEG_K. -/
theorem test_nop_keeps_error :
    onCommand 0 { Regs.reset with status := ⟨false, false, true, false, .negK⟩ } =
      { Regs.reset with status := ⟨false, false, true, false, .negK⟩ } := by decide

/-- A6: a NOP while BUSY = 1 is dropped and sets OVR. -/
theorem test_nop_dropped_while_busy :
    statusWord (onCommand 0 { Regs.reset with status := ⟨true, false, false, false, .none⟩ }).status = 0x9 := by decide

/-- C-CLR: STATUS 0xA becomes 0x2. -/
theorem test_clear : shown (onCommand 1 { Regs.reset with
    acc := 0x44, niter := 3, idx := 3, status := ⟨false, true, false, true, .none⟩ }) = (0x2, 0, 0) := by decide

/-- C-STEP1. -/
theorem test_step_counts : shown (onCommand 2 { Regs.reset with opa := 0xA, opb := 0x6 }) = (0x2, 0, 2) := by decide

/-- C-STEP2: the sum wraps to 0 without a flag. -/
theorem test_step_wraps : shown (onCommand 2 { Regs.reset with
    acc := 0xFFFFFFFFFFFFFFC0, opb := 0xFFFFFFFFFFFFFFFF }) = (0x2, 0, 0) := by decide

/-- C-MISXY: X_BASE is checked before Y_BASE. -/
theorem test_run_misaligned : shown (onCommand 3 { Regs.reset with k := 64, xBase := 0x1001, yBase := 0x2001 }) =
    (0x304, 0x1001, 0) := by decide

/-- C-KMAX: NITER is 2^57 and BUSY is set. -/
theorem test_run_largest_k :
    (onCommand 3 { Regs.reset with k := 0x7FFFFFFFFFFFFFFF }).niter = 0x0200000000000000 ∧
    shown (onCommand 3 { Regs.reset with k := 0x7FFFFFFFFFFFFFFF }) = (0x1, 0, 0) := by decide

/-- C-NEGMIS: NEG_K wins over the misaligned base. -/
theorem test_run_negative_k : shown (onCommand 3 { Regs.reset with k := 0xFFFFFFFFFFFFFFFB, xBase := 0x1001 }) =
    (0x204, 0xFFFFFFFFFFFFFFFB, 0) := by decide

/-- C-ILL1. -/
theorem test_illegal_command : shown (onCommand 0x8000000000000003 { Regs.reset with acc := 2 }) =
    (0x104, 0x8000000000000003, 2) := by decide

/-- `step` runs the table's word as the first instruction after reset. -/
theorem test_first_command_after_reset :
    statusWord (after (State.reset.withFetchWord 64 2)).regs.status = 0x2 ∧
    (after (State.reset.withFetchWord 64 2)).pending = [] := by decide

/-- A run in progress over `n` word pairs at 0x1000 and 0x2000. -/
def running (k n idx acc : Word) : Regs :=
  { Regs.reset with
    status := ⟨true, false, false, false, .none⟩, xBase := 0x1000, yBase := 0x2000, k := k, niter := n, idx := idx,
    acc := acc }

/-- E-S8: the last word is not masked to K = 1 bit. -/
theorem test_engine_counts_whole_word :
    shown (after (setup (running 1 1 0 0) [] [(0x1000, 0xFFFFFFFFFFFFFFFF)])).regs = (0x2, 0, 0x40) ∧
    (after (setup (running 1 1 0 0) [] [(0x1000, 0xFFFFFFFFFFFFFFFF)])).reads = [0x1000, 0x2000] := by decide

/-- The platform of E-BUSY, before its second step: the y read at 0x2008 is refused. -/
def partlyAdmitted : State :=
  { setup (running 128 2 1 0x40) [.engine []] [] with platform := ⟨0x40000000, [⟨0x1000, 0x10⟩, ⟨0x2000, 8⟩]⟩ }

/-- E-BUSY, step 2. -/
theorem test_engine_bus_error :
    shown (after partlyAdmitted).regs = (0x404, 0x2008, 0) ∧ (after partlyAdmitted).regs.idx = 1 := by decide

/-- E-WRAP, step 2: `addr_x(1)` wraps to 0. -/
theorem test_engine_address_wraps :
    (after (setup { running 128 2 1 1 with xBase := 0xFFFFFFFFFFFFFFF8 } [] [(0, 0x3)])).reads = [0, 0x2008] ∧
    (after (setup { running 128 2 1 1 with xBase := 0xFFFFFFFFFFFFFFF8 } [] [(0, 0x3)])).regs.acc = 3 := by decide

/-- A4: a write to ACC is ignored. -/
theorem test_write_acc_ignored :
    (after (setup { Regs.reset with acc := 2 } [writeAt Platform.reset 0x28 5] [])).regs = { Regs.reset with acc := 2 } := by
  decide

/-- A7: K is not written while BUSY = 1, and OVR is set. -/
theorem test_write_k_dropped_while_busy :
    (after (setup (running 64 1 0 0) [writeAt Platform.reset 0x20 5] [])).regs.k = 64 ∧
    statusWord (after (setup (running 64 1 0 0) [writeAt Platform.reset 0x20 5] [])).regs.status = 0x9 := by decide

/-- A8 and A10: a 32-bit write, and a read above the window, are refused. -/
theorem test_access_refused :
    stepsRefused (setup Regs.reset [.host (.write 32 0x40000020 5)] []) = true ∧
    stepsRefused (setup Regs.reset [.host (.read 64 0x40000080)] []) = true := by decide

/-- A9: a misaligned read is refused. -/
theorem test_misaligned_access_refused :
    stepsRefused (setup Regs.reset [.host (.read 64 0x4000000C)] []) = true := by decide

/-- Z1: reset in the middle of a run. -/
theorem test_reset_ends_a_run :
    (after (setup (running 128 2 1 0x40) [.reset] [])).regs = Regs.reset ∧
    (after (setup (running 128 2 1 0x40) [.reset] [])).reads = [] := by decide

/-- P1: `RD STATUS` and `RD ACC` after the run of the source's first scenario. -/
theorem test_hamming_result : hammingResult 0x2 0x2 = some (.distance 2) ∧ hammingResult 0x404 0 = some (.error 4) := by decide

/-! ## Witnesses: for each statement with hypotheses, a state and operands that meet them together -/

/-- An idle block with the turns `es` still to come. -/
def idleWith (es : List Event) : State :=
  setup { Regs.reset with xBase := 0x1000, yBase := 0x2000, k := 65, opa := 0xA, opb := 0x6 } es [(0x1000, 0xFF)]

/-- A run of two word pairs, one of them done, with the turns `es` still to come. -/
def busyWith (es : List Event) : State := setup (running 65 2 1 8) es [(0x1000, 0xFF), (0x1008, 0xF)]

theorem regsInv_running : RegsInv (running 65 2 1 8) where
  niter_le := by decide
  idx_le := by decide
  done_err := by decide
  cause_iff := by decide
  info_zero := by decide
  run := fun _ => ⟨by decide, by decide, by decide, by decide, by decide, by decide, by decide, by decide⟩

theorem inv_busyWith (es : List Event) : MachineInv (busyWith es) := ⟨regsInv_running, (by decide : (busyWith []).mem.wf = true)⟩

theorem witness_DecodeIsTotal :
    (busyWith [cmdWrite Platform.reset 0x13]).pending = cmdWrite (busyWith []).platform 0x13 :: [] ∧
    (busyWith []).regs.status.busy = true := ⟨rfl, rfl⟩

theorem witness_NiterIsTheCeilingOfKOver64 : 2 ^ 63 - 1 < 2 ^ 63 ∧ 2 ^ 63 - 1 ≤ 64 * 2 ^ 57 := by decide

theorem witness_HammingDistanceComparesWholeWords : niterOf 65 = niterOf 128 := by decide

theorem witness_CountIgnoresByteOrder :
    (∀ j : Fin 8, (0xEFCDAB8967452301 : Word).extractLsb' (8 * j.val) 8 =
      (0x0123456789ABCDEF : Word).extractLsb' (8 * (Fin.revPerm j).val) 8) ∧
    ∀ j : Fin 8, (0x0807060504030201 : Word).extractLsb' (8 * j.val) 8 =
      (0x0102030405060708 : Word).extractLsb' (8 * (Fin.revPerm j).val) 8 := by decide

/-- Both clauses: a refused address just above an admitted one. -/
theorem witness_MemReadSumsEightBytes :
    (0x1010 : Word).toNat % 8 = 0 ∧ memAdmit partlyAdmitted.platform 0x1010 = false ∧
    (0x1008 : Word).toNat % 8 = 0 ∧ memAdmit partlyAdmitted.platform 0x1008 = true := by decide

theorem witness_WordsAreLittleEndian : memRead (busyWith []) 0x1008 = .word 0xF ∧ 7 < 8 := by decide

theorem witness_BufferBitsArePackedLowToHigh :
    (busyWith []).regs.xBase.toNat % 8 = 0 ∧ (busyWith []).regs.yBase.toNat % 8 = 0 := by decide

theorem witness_EffectiveAddressesWrap :
    memRead (busyWith []) (addrX (busyWith []).regs 1) = .word 0xF ∧
    memRead (busyWith []) (addrY (busyWith []).regs 1) = .word 0 ∧
    turnIsEngine (busyWith []) ∧ step (busyWith []) = .next (after (busyWith [])) :=
  ⟨by decide, by decide, .inl rfl, step_after (by decide)⟩

/-- The second of two word pairs is read in the block's own window, whose last word begins at 0x40000078. -/
def readsOwnWindow : State := setup { running 65 2 1 8 with yBase := 0x40000070 } [] []

theorem witness_OwnWindowRaisesBusError :
    (∃ j < 8, Platform.reset.blockBase ≤ (0x40000078 : Word).toNat + j ∧
      (0x40000078 : Word).toNat + j ≤ Platform.reset.blockBase + 0x7F) ∧
    turnIsEngine readsOwnWindow ∧ readsOwnWindow.regs.status.busy = true ∧
    step readsOwnWindow = .next (after readsOwnWindow) ∧ 0x40000078 ∈ (after readsOwnWindow).reads :=
  ⟨by decide, .inl rfl, rfl, step_after (by decide), by decide⟩

/-- The first word below the window and the first above it are admitted. -/
theorem witness_OwnWindow_edges :
    memAdmit Platform.reset 0x3FFFFFF8 = true ∧ memAdmit Platform.reset 0x40000080 = true ∧
    memAdmit Platform.reset 0x40000000 = false ∧ memAdmit Platform.reset 0x40000078 = false := by decide

theorem witness_PlatformWriteIsReadBack :
    (idleWith [.memory ⟨0xFFFFFFFFFFFFFFF8, wordBytes 0x0102030405060708⟩]).mem.wf = true ∧
    (0xFFFFFFFFFFFFFFF8 : Word).toNat % 8 = 0 ∧
    (idleWith [.memory ⟨0xFFFFFFFFFFFFFFF8, wordBytes 0x0102030405060708⟩]).pending =
      .memory ⟨0xFFFFFFFFFFFFFFF8, wordBytes 0x0102030405060708⟩ :: [] := ⟨by decide, by decide, rfl⟩

/-- Both clauses: a turn without a write, and an engine turn whose one write does not cover address 0x5001. -/
theorem witness_BlockOnlyReadsMemory :
    (step (busyWith []) = .next (after (busyWith [])) ∧ turnWrites (busyWith []) = []) ∧
    (step (busyWith [.engine [⟨0x5000, [1]⟩]]) = .next (after (busyWith [.engine [⟨0x5000, [1]⟩]])) ∧
      ∀ w ∈ turnWrites (busyWith [.engine [⟨0x5000, [1]⟩]]), w.covers 0x5001 = false) :=
  ⟨⟨step_after (by decide), rfl⟩, step_after (by decide), by decide⟩

/-- All three clauses: another turn, an idle engine turn, and an engine turn in a run. -/
theorem witness_EngineReadsXBeforeY :
    (step (busyWith [.reset]) = .next (after (busyWith [.reset])) ∧ ¬ turnIsEngine (busyWith [.reset])) ∧
    (step (idleWith []) = .next (after (idleWith [])) ∧ (idleWith []).regs.status.busy = false) ∧
    (step (busyWith []) = .next (after (busyWith [])) ∧ turnIsEngine (busyWith []) ∧
      (busyWith []).regs.status.busy = true) := by
  refine ⟨⟨step_after (by decide), ?_⟩, ⟨step_after (by decide), rfl⟩, step_after (by decide), .inl rfl, rfl⟩
  rintro (h | ⟨b, h⟩) <;> cases h

/-- The idle and the busy case of the commands. -/
theorem witness_NopChangesNothing :
    (idleWith []).regs.status.busy = false ∧ (busyWith []).regs.status.busy = true := ⟨rfl, rfl⟩

/-- The last clause: a STEP that leaves OVR set. -/
theorem witness_ClearClearsTheResult :
    (idleWith []).regs.status.busy = false ∧ (busyWith []).regs.status.busy = true ∧
    ∃ s t : State, Instr.step ≠ .clear ∧ exec .step s = .next t ∧ s.regs.status.ovr = true :=
  ⟨rfl, rfl, setup { Regs.reset with status := ⟨false, true, false, true, .none⟩ } [] [], _, by decide, rfl, rfl⟩

theorem witness_StepAccumulatesItsOperands : (idleWith []).regs.status.busy = false := rfl

/-- The five cases: K = -1, K = 0, X_BASE and Y_BASE one above a multiple of 8, and a run that starts. -/
theorem witness_RunAcceptance :
    (idleWith []).regs.status.busy = false ∧
    (onCommand 3 { (idleWith []).regs with k := 0xFFFFFFFFFFFFFFFF }).status.cause = .negK ∧
    (onCommand 3 { (idleWith []).regs with k := 0 }).status.done = true ∧
    (onCommand 3 { (idleWith []).regs with xBase := 0x1001 }).faultInfo = 0x1001 ∧
    (onCommand 3 { (idleWith []).regs with yBase := 0x2001 }).faultInfo = 0x2001 ∧
    (onCommand 3 (idleWith []).regs).status.busy = true := by decide

theorem witness_RunStartsOrIsDone :
    (0 ≤ sint64 (idleWith []).regs.k ∧ 0 < sint64 (idleWith []).regs.k ∧ (idleWith []).regs.status.busy = false ∧
      (idleWith []).regs.xBase.toNat % 8 = 0 ∧ (idleWith []).regs.yBase.toNat % 8 = 0) ∧
    (State.reset.regs.status.busy = false ∧ 0 ≤ sint64 State.reset.regs.k ∧ sint64 State.reset.regs.k = 0) := by decide

/-- A RUN is the next turn, with the registers `r`. -/
def offersRun (r : Regs) : State := setup r [cmdWrite Platform.reset (encode .run)] []

/-- The least and the greatest negative K. -/
theorem witness_NegativeKIsRejected :
    (offersRun { Regs.reset with k := 0x8000000000000000 }).regs.status.busy = false ∧
    sint64 0x8000000000000000 < 0 ∧ sint64 0xFFFFFFFFFFFFFFFF < 0 ∧
    (offersRun { Regs.reset with k := 0x8000000000000000 }).pending =
      cmdWrite Platform.reset (encode .run) :: [] := ⟨rfl, by decide, by decide, rfl⟩

/-- Either base misaligned: X_BASE by 1, Y_BASE by 7. -/
theorem witness_MisalignedBaseIsRejected :
    (offersRun { Regs.reset with k := 1, xBase := 1 }).regs.status.busy = false ∧ 0 < sint64 1 ∧
    (offersRun { Regs.reset with k := 1, xBase := 1 }).pending = cmdWrite Platform.reset (encode .run) :: [] ∧
    (offersRun { Regs.reset with k := 1, xBase := 1 }).regs.xBase.toNat % 8 ≠ 0 ∧
    (offersRun { Regs.reset with k := 1, yBase := 7 }).regs.yBase.toNat % 8 ≠ 0 :=
  ⟨rfl, by decide, rfl, by decide, by decide⟩

/-- The least word of either kind, 0x10 and 0x4. -/
theorem witness_IllegalWordIsRecorded :
    (idleWith [cmdWrite Platform.reset 0x10]).regs.status.busy = false ∧
    ((0x10 : Word).toNat / 16 ≠ 0 ∧ 4 ≤ (0x4 : Word).toNat % 16) ∧
    (idleWith [cmdWrite Platform.reset 0x10]).pending = cmdWrite (idleWith []).platform 0x10 :: [] ∧
    (idleWith [cmdWrite Platform.reset 0x4]).pending = cmdWrite (idleWith []).platform 0x4 :: [] :=
  ⟨rfl, by decide, rfl, rfl⟩

theorem witness_CommandWritesAreHandledAtOnce :
    (busyWith [cmdWrite Platform.reset 2]).pending = cmdWrite (busyWith []).platform 2 :: [] ∧
    (busyWith [cmdWrite Platform.reset 2]).regs.status.busy = true ∧
    (idleWith [cmdWrite Platform.reset 2]).pending = cmdWrite (idleWith []).platform 2 :: [] ∧
    (idleWith [cmdWrite Platform.reset 2]).regs.status.busy = false ∧
    decode 2 = .command .step ∧ decode 4 = .illegal 4 := ⟨rfl, rfl, rfl, rfl, by decide, by decide⟩

theorem witness_StepRunsTheDecodedCommand :
    (idleWith [cmdWrite Platform.reset 3]).pending = cmdWrite (idleWith []).platform 3 :: [] ∧
    decode 3 = .command .run ∧ Instr.run.wf = true := ⟨rfl, by decide, rfl⟩

theorem witness_CommandsBeginWithStatusReset :
    (Instr.step ≠ .nop ∧ (idleWith []).regs.status.busy = false) ∧
    ((idleWith [cmdWrite Platform.reset 4]).pending = cmdWrite (idleWith []).platform 4 :: [] ∧
      decode 4 = .illegal 4 ∧ (idleWith [cmdWrite Platform.reset 4]).regs.status.busy = false) :=
  ⟨⟨by decide, rfl⟩, rfl, by decide, rfl⟩

/-- An accepted RUN and a dropped one, an accepted NOP and an accepted STEP. -/
theorem witness_CommandFrame :
    (∃ t, exec .run (idleWith []) = .next t) ∧ (∃ t, exec .run (busyWith []) = .next t) ∧
    (∃ t, exec .nop (idleWith []) = .next t) ∧ (∃ t, exec .step (idleWith []) = .next t) ∧
    (idleWith []).regs.status.busy = false ∧ (busyWith []).regs.status.busy = true :=
  ⟨⟨_, rfl⟩, ⟨_, rfl⟩, ⟨_, rfl⟩, ⟨_, rfl⟩, rfl, rfl⟩

/-- Idle, x refused, y refused, and a last word. -/
theorem witness_EngineStepProcessesOneWordPair :
    ((busyWith [.engine []]).pending = .engine [] :: [] ∧ (busyWith []).regs.xBase.toNat % 8 = 0 ∧
      (busyWith []).regs.yBase.toNat % 8 = 0) ∧
    (idleWith [.engine []]).regs.status.busy = false ∧
    memAdmit partlyAdmitted.platform (addrX partlyAdmitted.regs 2) = false ∧
    memAdmit partlyAdmitted.platform (addrX partlyAdmitted.regs 1) = true ∧
    memAdmit partlyAdmitted.platform (addrY partlyAdmitted.regs 1) = false ∧
    (after (busyWith [.engine []])).regs.status.done = true :=
  ⟨⟨rfl, by decide, by decide⟩, rfl, by decide, by decide, by decide, by decide⟩

theorem witness_WritesLandBetweenTheTwoReads :
    (busyWith [.engine [⟨0x2008, [1]⟩]]).pending = .engine [⟨0x2008, [1]⟩] :: [] ∧
    (busyWith []).regs.status.busy = true ∧ (busyWith []).regs.xBase.toNat % 8 = 0 ∧
    (busyWith []).regs.yBase.toNat % 8 = 0 ∧
    memAdmit (busyWith []).platform (addrX (busyWith []).regs (busyWith []).regs.idx.toNat) = true ∧
    memAdmit (busyWith []).platform (addrY (busyWith []).regs (busyWith []).regs.idx.toNat) = true :=
  ⟨rfl, rfl, by decide, by decide, by decide, by decide⟩

theorem witness_IdleBlockRests :
    (idleWith []).regs.status.busy = false ∧ (idleWith []).pending = [] ∧
    (idleWith [.engine []]).regs.status.busy = false ∧ (idleWith [.engine []]).pending = .engine [] :: [] :=
  ⟨rfl, rfl, rfl, rfl⟩

/-- The last admitted offset is 0x78; 0x80 and a 32-bit width are refused. -/
theorem witness_OnlyAdmittedAccessesAreCarriedOut :
    (idleWith [.host (.read 64 0x40000078)]).pending = .host (.read 64 0x40000078) :: [] ∧
    stepsOn (idleWith [.host (.read 64 0x40000078)]) = true ∧
    step (idleWith [.host (.write 64 0x40000080 1)]) = .refused .accessNotAdmitted ∧
    step (idleWith [.host (.write 32 0x40000020 1)]) = .refused .accessNotAdmitted :=
  ⟨rfl, by decide, rfl, rfl⟩

/-- The first and the last offset. -/
theorem witness_ReadsReturnTheRegisters :
    (0x00 % 8 = 0 ∧ 0x00 < 0x80 ∧ 0x78 % 8 = 0 ∧ 0x78 < 0x80) ∧
    (busyWith [readAt Platform.reset 0x78]).pending = readAt (busyWith []).platform 0x78 :: [] ∧
    (busyWith [readAt Platform.reset 0x00]).pending = readAt (busyWith []).platform 0x00 :: [] :=
  ⟨by decide, rfl, rfl⟩

theorem witness_RunOperandWrites :
    (busyWith [writeAt Platform.reset 0x10 7]).pending = writeAt (busyWith []).platform 0x10 7 :: [] ∧
    (idleWith [writeAt Platform.reset 0x18 7]).pending = writeAt (idleWith []).platform 0x18 7 :: [] ∧
    (idleWith [writeAt Platform.reset 0x20 7]).pending = writeAt (idleWith []).platform 0x20 7 :: [] :=
  ⟨rfl, rfl, rfl⟩

theorem witness_StepOperandWrites :
    (busyWith [writeAt Platform.reset 0x30 9]).pending = writeAt (busyWith []).platform 0x30 9 :: [] ∧
    (busyWith [writeAt Platform.reset 0x38 9]).pending = writeAt (busyWith []).platform 0x38 9 :: [] ∧
    turnIsEngine (busyWith []) ∧ step (busyWith []) = .next (after (busyWith [])) :=
  ⟨rfl, rfl, .inl rfl, step_after (by decide)⟩

/-- Both clauses at their boundaries: writes at 0x08, 0x28, 0x40 and 0x78, reads at 0x58 and 0x78. -/
theorem witness_ReadOnlyAndReservedOffsets :
    (busyWith [writeAt Platform.reset 0x08 1]).pending = writeAt (busyWith []).platform 0x08 1 :: [] ∧
    (busyWith [writeAt Platform.reset 0x28 1]).pending = writeAt (busyWith []).platform 0x28 1 :: [] ∧
    (busyWith [writeAt Platform.reset 0x40 1]).pending = writeAt (busyWith []).platform 0x40 1 :: [] ∧
    (busyWith [writeAt Platform.reset 0x78 1]).pending = writeAt (busyWith []).platform 0x78 1 :: [] ∧
    (busyWith [readAt Platform.reset 0x58]).pending = readAt (busyWith []).platform 0x58 :: [] ∧
    (busyWith [readAt Platform.reset 0x78]).pending = readAt (busyWith []).platform 0x78 :: [] ∧
    0x40 ≤ 0x40 ∧ 0x58 ≤ 0x58 ∧ 0x78 % 8 = 0 ∧ 0x78 < 0x80 := by
  refine ⟨rfl, rfl, rfl, rfl, rfl, rfl, ?_⟩
  decide

theorem witness_ReadAfterWriteSeesTheWrite :
    (busyWith [writeAt Platform.reset 0x20 7, readAt Platform.reset 0x20]).pending =
      writeAt (busyWith []).platform 0x20 7 :: readAt (busyWith []).platform 0x20 :: [] ∧
    (busyWith [writeAt Platform.reset 0x38 7, readAt Platform.reset 0x38]).pending =
      writeAt (busyWith []).platform 0x38 7 :: readAt (busyWith []).platform 0x38 :: [] := ⟨rfl, rfl⟩

/-- BUSY rises at an accepted RUN, and falls at the last word, at a bus error and at reset; a CMD write is dropped. -/
theorem witness_BusyRisesAndFallsAsStated :
    (let s := idleWith [cmdWrite Platform.reset 3];
      step s = .next (after s) ∧ s.regs.status.busy = false ∧ (after s).regs.status.busy = true) ∧
    (let s := busyWith [];
      step s = .next (after s) ∧ s.regs.status.busy = true ∧ (after s).regs.status.busy = false) ∧
    (let s := partlyAdmitted;
      step s = .next (after s) ∧ s.regs.status.busy = true ∧ (after s).regs.status.busy = false) ∧
    (let s := busyWith [.reset];
      step s = .next (after s) ∧ s.regs.status.busy = true ∧ (after s).regs.status.busy = false) ∧
    (let s := busyWith [writeAt Platform.reset 0x00 3];
      step s = .next (after s) ∧ s.regs.status.busy = true ∧ turnIs s (writeAt s.platform 0x00 3)) :=
  ⟨⟨step_after (by decide), by decide, by decide⟩, ⟨step_after (by decide), by decide, by decide⟩,
   ⟨step_after (by decide), by decide, by decide⟩, ⟨step_after (by decide), by decide, by decide⟩,
   step_after (by decide), rfl, rfl⟩

/-- OVR is set by a dropped K write, and cleared by an accepted CLEAR. -/
theorem witness_OverrunIsSticky :
    (let s := busyWith [writeAt Platform.reset 0x20 7];
      step s = .next (after s) ∧ s.regs.status.ovr = false ∧ (after s).regs.status.ovr = true) ∧
    (let s := setup { Regs.reset with status := ⟨false, true, false, true, .none⟩ } [cmdWrite Platform.reset 1] [];
      step s = .next (after s) ∧ s.regs.status.ovr = true ∧ (after s).regs.status.ovr = false) :=
  ⟨⟨step_after (by decide), by decide, by decide⟩, step_after (by decide), by decide, by decide⟩

/-- Each of the five operand registers changes in some step. -/
theorem witness_OperandRegistersChangeOnlyByHostWrites :
    (∀ off ∈ [0x10, 0x18, 0x20, 0x30, 0x38],
      step (idleWith [writeAt Platform.reset off 7]) = .next (after (idleWith [writeAt Platform.reset off 7])) ∧
      ¬ turnIs (idleWith [writeAt Platform.reset off 7]) .reset) ∧
    (after (idleWith [writeAt Platform.reset 0x10 7])).regs.xBase ≠ (idleWith []).regs.xBase ∧
    (after (idleWith [writeAt Platform.reset 0x18 7])).regs.yBase ≠ (idleWith []).regs.yBase ∧
    (after (idleWith [writeAt Platform.reset 0x20 7])).regs.k ≠ (idleWith []).regs.k ∧
    (after (idleWith [writeAt Platform.reset 0x30 7])).regs.opa ≠ (idleWith []).regs.opa ∧
    (after (idleWith [writeAt Platform.reset 0x38 7])).regs.opb ≠ (idleWith []).regs.opb := by
  refine ⟨fun off h => ⟨step_after ?_, ?_⟩, by decide, by decide, by decide, by decide, by decide⟩
  · revert off; decide
  · nofun

/-- ACC, NITER and IDX change by a STEP, by a RUN and by an engine step. -/
theorem witness_ResultRegistersChangeOnlyByCommandsAndTheEngine :
    (let s := idleWith [cmdWrite Platform.reset 2];
      step s = .next (after s) ∧ (after s).regs.acc ≠ s.regs.acc) ∧
    (let s := idleWith [cmdWrite Platform.reset 3];
      step s = .next (after s) ∧ (after s).regs.niter ≠ s.regs.niter) ∧
    (let s := busyWith [];
      step s = .next (after s) ∧ (after s).regs.idx ≠ s.regs.idx) :=
  ⟨⟨step_after (by decide), by decide⟩, ⟨step_after (by decide), by decide⟩, step_after (by decide), by decide⟩

/-- A NOP is accepted; it replaces no result. -/
theorem witness_ResultsStayUntilTheNextCommand :
    (idleWith [cmdWrite Platform.reset 0]).regs.status.busy = false ∧
    step (idleWith [cmdWrite Platform.reset 0]) = .next (after (idleWith [cmdWrite Platform.reset 0])) ∧
    ¬ turnIs (idleWith [cmdWrite Platform.reset 0]) .reset ∧
    ¬ turnReplacesStatus (idleWith [cmdWrite Platform.reset 0]) := by
  refine ⟨rfl, step_after (by decide), nofun, ?_⟩
  rintro ⟨-, c, h, hc⟩
  cases h
  exact hc (by decide)

theorem witness_ResetZeroesEveryRegister : (busyWith [.reset]).pending = .reset :: [] := rfl

theorem witness_EveryStepKeepsTheInvariant :
    MachineInv (busyWith []) ∧ step (busyWith []) = .next (after (busyWith [])) :=
  ⟨inv_busyWith [], step_after (by decide)⟩

theorem witness_NoStepFaultsUnderTheInvariant : MachineInv (busyWith [.engine []]) := inv_busyWith _

/-- Outside the invariant the engine can fault: a misaligned base while BUSY = 1. -/
theorem test_fault_outside_the_invariant :
    stopsWithFault (step (setup { running 65 2 1 8 with xBase := 0x1001 } [] [])) = true := by decide

theorem witness_PlatformIsFixed :
    step (busyWith [.reset, .engine []]) = .next (after (busyWith [.reset, .engine []])) := step_after (by decide)

theorem witness_RunNeverWraps : MachineInv (busyWith []) ∧ (busyWith []).regs.status.busy = true :=
  ⟨inv_busyWith [], rfl⟩

/-- A run in its middle, while another agent writes a byte just above the last y word. -/
def midRun : State := busyWith [.memory ⟨0x2010, [1]⟩]

theorem midRun_spares : sparesBuffers midRun := by
  intro w hw a ha
  have hw' : w = ⟨0x2010, [1]⟩ := by simpa [midRun, busyWith, setup, turnWrites, eventWrites] using hw
  subst hw'
  have ha' : a = 0x2010 := by
    have : (0x2010 : Word) = a := by simpa [MemWrite.covers] using ha
    exact this.symm
  subst ha'
  unfold inBuffers
  decide

theorem witness_RunKeepsThePartialSum :
    MachineInv midRun ∧ midRun.regs.status.busy = true ∧ midRun.regs.acc.toNat = partialSum midRun ∧
    sparesBuffers midRun ∧ ¬ turnIs midRun .reset ∧ step midRun = .next (after midRun) :=
  ⟨inv_busyWith _, rfl, by decide, midRun_spares, nofun, step_after (by decide)⟩

/-- The same with the engine's last step as the turn. -/
theorem witness_RunKeepsThePartialSum_lastStep :
    MachineInv (busyWith []) ∧ (busyWith []).regs.acc.toNat = partialSum (busyWith []) ∧
    sparesBuffers (busyWith []) ∧ ¬ turnIs (busyWith []) .reset ∧
    step (busyWith []) = .next (after (busyWith [])) ∧ (after (busyWith [])).regs.status.done = true :=
  ⟨inv_busyWith _, by decide, fun w hw => absurd hw (List.not_mem_nil), nofun, step_after (by decide), by decide⟩

theorem witness_RunComputesTheHammingDistance :
    (idleWith []).regs.status.busy = false ∧ (idleWith []).pending = [] ∧ 0 ≤ sint64 (idleWith []).regs.k ∧
    0 < niterOf 65 ∧ (idleWith []).regs.xBase.toNat % 8 = 0 ∧ (idleWith []).regs.yBase.toNat % 8 = 0 ∧
    (sint64 (idleWith []).regs.k).toNat = 65 ∧ admitsRun (idleWith []) (niterOf 65) := by
  refine ⟨rfl, rfl, by decide, by decide, by decide, by decide, by decide, ?_⟩
  unfold admitsRun
  decide

theorem witness_EveryRunEnds :
    MachineInv (busyWith []) ∧ (busyWith []).regs.status.busy = true ∧ (busyWith []).pending = [] :=
  ⟨inv_busyWith [], rfl, rfl⟩

/-- HAMMING on two words at 0x1000 and 0x2000 (K = 65), the engine's two steps before the first poll. -/
def hammingState : State :=
  idleWith (scriptEvents Platform.reset (hammingStart 0x1000 0x2000 65) ++ List.replicate 2 (.engine []) ++
    scriptEvents Platform.reset (waitLines 1 ++ [.rd .status, .rd .acc]))

theorem witness_HammingScriptReturnsTheDistance :
    hammingState.regs.status.busy = false ∧ 0 ≤ sint64 65 ∧ (0x1000 : Word).toNat % 8 = 0 ∧
    (0x2000 : Word).toNat % 8 = 0 ∧ niterOf (sint64 65).toNat = 2 ∧
    (∀ i < 2, memAdmit hammingState.platform (wordAddr 0x1000 i) = true ∧
      memAdmit hammingState.platform (wordAddr 0x2000 i) = true) ∧
    hammingState.pending = scriptEvents hammingState.platform (hammingStart 0x1000 0x2000 65) ++
      List.replicate 2 (.engine []) ++
      scriptEvents hammingState.platform (waitLines 1 ++ [.rd .status, .rd .acc]) :=
  ⟨rfl, by decide, by decide, by decide, by decide, by decide, rfl⟩

end Sys2Proof.Tests
end

section
/-! PROOFS. The lemmas the statements about steps share: which word stands for which command, what a host write leaves of
the registers as one function, and what one step does to the registers, turn by turn. -/

namespace Sys2Proof.Proofs
open Sys2Proof.Machine

/-! ### Command words (30_encoding.md R73, R75) -/

theorem decode_encode (i : Instr) : decode (encode i) = .command i := by
  cases i <;> decide

theorem encode_inj {i j : Instr} : encode i = encode j ↔ i = j := by
  refine ⟨fun h => ?_, congrArg encode⟩
  have hd := congrArg decode h
  rwa [decode_encode, decode_encode, Decoded.command.injEq] at hd

/-- A word whose reserved field is zero is its OP field alone. -/
theorem eq_opField_of_rsvField {c : Word} (h : rsvField c = 0) : c = (opField c).setWidth 64 := by
  have hr : c.toNat / 16 % 2 ^ 60 = 0 := by
    simpa [rsvField, Nat.shiftRight_eq_div_pow] using congrArg BitVec.toNat h
  have hc := c.isLt
  apply BitVec.eq_of_toNat_eq
  simp only [opField, BitVec.toNat_setWidth, BitVec.extractLsb'_toNat, Nat.shiftRight_zero]
  omega

theorem decode_eq_command {c : Word} {i : Instr} : decode c = .command i ↔ c = encode i := by
  refine ⟨fun h => ?_, fun h => h ▸ decode_encode i⟩
  unfold decode at h
  split_ifs at h with hr h0 h1 h2 h3 <;> cases h <;> rw [eq_opField_of_rsvField (not_not.mp hr)]
  · rw [h0]; rfl
  · rw [h1]; rfl
  · rw [h2]; rfl
  · rw [h3]; rfl

/-- The accepted effect of a CMD write of the word `c`, as a function of the registers (R120). -/
def commandEffect (c : Word) (r : Regs) : Regs :=
  match decode c with
  | .command i => acceptedRegs i r
  | .illegal c => illegalRegs c r

theorem commandWrite_eq (c : Word) (s : State) : commandWrite c s = acceptCommand (commandEffect c) s := by
  unfold commandWrite
  cases hd : decode c with
  | command i =>
    have he : commandEffect c = acceptedRegs i := by funext r; rw [commandEffect, hd]
    rw [he]; exact exec_eq i s
  | illegal c' =>
    have he : commandEffect c = illegalRegs c' := by funext r; rw [commandEffect, hd]
    rw [he]; rfl

/-- A word is the word of one command, with that command's effect, or of none, and then it is an illegal one. -/
theorem commandEffect_cases (c : Word) (r : Regs) :
    (∃ i, c = encode i ∧ commandEffect c r = acceptedRegs i r) ∨
    ((∀ i, c ≠ encode i) ∧ ∃ c', commandEffect c r = illegalRegs c' r) := by
  unfold commandEffect
  cases hd : decode c with
  | command i => exact .inl ⟨i, decode_eq_command.mp hd, rfl⟩
  | illegal c' =>
    refine .inr ⟨fun i hc => ?_, c', rfl⟩
    rw [decode_eq_command.mpr hc] at hd
    cases hd

/-! ### Host writes (42_register_access.md R153 to R157) -/

/-- The offsets whose writes are dropped while BUSY = 1 (R120, R154). -/
def busyGuarded : Option RegName → Bool
  | some .cmd | some .xBase | some .yBase | some .k => true
  | some .status | some .acc | some .opa | some .opb | some .niter | some .idx | some .faultInfo | none => false

theorem busyGuarded_regAt {off : Nat} :
    busyGuarded (regAt off) = true ↔ off = 0x00 ∨ off = 0x10 ∨ off = 0x18 ∨ off = 0x20 := by
  unfold regAt
  split_ifs <;> simp_all [busyGuarded]

theorem regAt_eq_cmd {off : Nat} : regAt off = some .cmd ↔ off = 0 := by
  unfold regAt
  split_ifs <;> simp_all

/-- The registers an admitted host write of `v` leaves. -/
def writtenRegs (slot : Option RegName) (v : Word) (r : Regs) : Regs :=
  match slot with
  | some .cmd => unlessBusy (commandEffect v) r
  | some .xBase => unlessBusy (fun r => r.setXBase v) r
  | some .yBase => unlessBusy (fun r => r.setYBase v) r
  | some .k => unlessBusy (fun r => r.setK v) r
  | some .opa => r.setOpa v
  | some .opb => r.setOpb v
  | some .status | some .acc | some .niter | some .idx | some .faultInfo | none => r

theorem portWrite_eq (slot : Option RegName) (v : Word) (s : State) :
    portWrite slot v s = .next (s.setRegs (writtenRegs slot v s.regs)) := by
  cases slot with
  | none => rfl
  | some reg =>
    cases reg with
    | cmd => exact commandWrite_eq v s
    | _ => rfl

theorem writtenRegs_dropped {slot : Option RegName} {r : Regs} (hb : r.status.busy = true)
    (hg : busyGuarded slot = true) (v : Word) : writtenRegs slot v r = dropWrite r :=
  match slot, hg with
  | some .cmd, _ => unlessBusy_busy hb (commandEffect v)
  | some .xBase, _ => unlessBusy_busy hb (fun r => r.setXBase v)
  | some .yBase, _ => unlessBusy_busy hb (fun r => r.setYBase v)
  | some .k, _ => unlessBusy_busy hb (fun r => r.setK v)

theorem writtenRegs_command {r : Regs} (hb : r.status.busy = false) (v : Word) :
    writtenRegs (some .cmd) v r = commandEffect v r := unlessBusy_idle hb _

/-- A write that is not dropped leaves STATUS alone, unless it is of CMD. -/
theorem writtenRegs_status {slot : Option RegName} {r : Regs} (hc : slot ≠ some .cmd)
    (hg : r.status.busy = true → busyGuarded slot = false) (v : Word) :
    (writtenRegs slot v r).status = r.status := by
  have idle_of_guarded : busyGuarded slot = true → r.status.busy = false := by
    intro h
    by_contra hb
    rw [hg (by simpa using hb)] at h
    cases h
  unfold writtenRegs
  split
  · exact absurd rfl hc
  · rw [unlessBusy_idle (idle_of_guarded rfl), Regs.setXBase_status]
  · rw [unlessBusy_idle (idle_of_guarded rfl), Regs.setYBase_status]
  · rw [unlessBusy_idle (idle_of_guarded rfl), Regs.setK_status]
  all_goals rfl

/-- A host write is dropped, is a command accepted, or leaves STATUS alone. -/
theorem writtenRegs_cases (slot : Option RegName) (v : Word) (r : Regs) :
    (r.status.busy = true ∧ busyGuarded slot = true ∧ writtenRegs slot v r = dropWrite r) ∨
    (r.status.busy = false ∧ slot = some .cmd ∧ writtenRegs slot v r = commandEffect v r) ∨
    ((r.status.busy = true → busyGuarded slot = false) ∧ (r.status.busy = false → slot ≠ some .cmd) ∧
      (writtenRegs slot v r).status = r.status) := by
  cases hb : r.status.busy with
  | true =>
    cases hg : busyGuarded slot with
    | true => exact .inl ⟨rfl, rfl, writtenRegs_dropped hb hg v⟩
    | false =>
      have hc : slot ≠ some .cmd := by rintro rfl; cases hg
      exact .inr (.inr ⟨fun _ => rfl, nofun, writtenRegs_status hc (fun _ => hg) v⟩)
  | false =>
    by_cases hc : slot = some .cmd
    · subst hc
      exact .inr (.inl ⟨rfl, rfl, writtenRegs_command hb v⟩)
    · exact .inr (.inr ⟨nofun, fun _ => hc, writtenRegs_status hc (by simp [hb]) v⟩)

/-! ### Turns -/

theorem turnIs_iff {s : State} {e e' : Event} (h : turnIs s e) : turnIs s e' ↔ e = e' := by
  unfold turnIs at *
  rw [h, Option.some.injEq]

theorem turnIsEngine_iff {s : State} {e : Event} (h : turnIs s e) : turnIsEngine s ↔ ∃ ws, e = .engine ws := by
  have hp : s.pending ≠ [] := by rintro hp; simp [turnIs, hp] at h
  simp only [turnIsEngine, hp, false_or, turnIs_iff h]

/-- The engine's turn is no other turn. -/
theorem not_turnIs_of_engine {s : State} {e : Event} (h : turnIsEngine s) (he : ∀ ws, e ≠ .engine ws) :
    ¬ turnIs s e := by
  intro ht
  obtain ⟨ws, hw⟩ := (turnIsEngine_iff ht).mp h
  exact he ws hw

theorem writeAt_inj {p : Platform} {off off' : Nat} {v v' : Word} :
    writeAt p off v = writeAt p off' v' ↔ off = off' ∧ v = v' := by
  simp [writeAt]

theorem cmdWrite_eq (p : Platform) (c : Word) : cmdWrite p c = writeAt p 0 c := rfl

/-- What a step does to the registers and the memory port, by whose turn it is. -/
inductive TurnEffect (s t : State) : Prop
  | engine (turn : turnIsEngine s) (m' : Memory) (h : EngineEffect s.platform s.mem m' s.regs t.reads t.regs)
  | read (width addr : Nat) (turn : turnIs s (.host (.read width addr))) (h : t.regs = s.regs)
  | write (off : Nat) (v : Word) (turn : turnIs s (writeAt s.platform off v))
      (h : t.regs = writtenRegs (regAt off) v s.regs)
  | memory (w : MemWrite) (turn : turnIs s (.memory w)) (h : t.regs = s.regs)
  | reset (turn : turnIs s .reset) (h : t.regs = Regs.reset)

theorem engineTurn_effect {s t : State} {ws : List MemWrite} {rest : List Event} (turn : turnIsEngine s)
    (h : engineTurn ws (turnTaken s rest) = .next t) : TurnEffect s t := by
  obtain ⟨as, r, he, -, rfl⟩ := engineTurn_cases h
  exact .engine turn _ he

theorem hostWrite_effect {s t : State} {width addr : Nat} {v : Word} {rest : List Event}
    (turn : turnIs s (.host (.write width addr v)))
    (h : hostAccess (.write width addr v) (turnTaken s rest) = .next t) : TurnEffect s t := by
  cases ho : accessOffset s.platform width addr with
  | none => simp [hostAccess, ho] at h
  | some off =>
    simp only [hostAccess, turnTaken_platform, ho, portWrite_eq, Host.Outcome.next.injEq] at h
    obtain ⟨rfl, hle, -, -, hoff⟩ := accessOffset_eq_some.mp ho
    have ha : addr = s.platform.blockBase + off := by omega
    subst ha h
    exact .write off v turn rfl

theorem step_effect {s t : State} (h : step s = .next t) : TurnEffect s t := by
  rcases step_cases h with ⟨hp, he⟩ | ⟨e, rest, hp, h⟩
  · exact engineTurn_effect (.inl hp) he
  have turn : turnIs s e := by rw [turnIs, hp]; rfl
  rcases h with ⟨a, rfl, ha⟩ | ⟨ws, rfl, he⟩ | ⟨w, rfl, rfl⟩ | ⟨rfl, rfl⟩
  · cases a with
    | write width addr v => exact hostWrite_effect turn ha
    | read width addr =>
      rcases hostAccess_cases ha with ⟨_, _, _, -, -, rfl⟩ | ⟨_, _, _, _, _, hc, -⟩
      · exact .read width addr turn rfl
      · cases hc
  · exact engineTurn_effect (.inr ⟨ws, turn⟩) he
  · exact .memory w turn rfl
  · exact .reset turn rfl

theorem step_write {s t : State} {off : Nat} {v : Word} (h : step s = .next t)
    (turn : turnIs s (writeAt s.platform off v)) : t.regs = writtenRegs (regAt off) v s.regs := by
  cases step_effect h with
  | write off' v' turn' h =>
    obtain ⟨rfl, rfl⟩ := writeAt_inj.mp ((turnIs_iff turn').mp turn)
    exact h
  | engine turn' => exact absurd turn (not_turnIs_of_engine turn' nofun)
  | read _ _ turn' => cases (turnIs_iff turn').mp turn
  | memory _ turn' => cases (turnIs_iff turn').mp turn
  | reset turn' => cases (turnIs_iff turn').mp turn

end Sys2Proof.Proofs
end

section
/-! PROOFS. BUSY and OVR (10_state.md R23, R26): in which steps each of the two bits rises and falls. -/

namespace Sys2Proof.Proofs
open Sys2Proof.Machine

/-! ### What commands do to BUSY and OVR -/

/-- The registers an accepted RUN starts the engine on: words to read, and aligned bases (R125). -/
def startsRun (r : Regs) : Prop := 0 < sint64 r.k ∧ r.xBase.toNat % 8 = 0 ∧ r.yBase.toNat % 8 = 0

theorem runRegs_busy {r : Regs} (hb : r.status.busy = false) : (runRegs r).status.busy = true ↔ startsRun r := by
  have hn : 0 ≤ sint64 r.k → (niterOf (sint64 r.k).toNat = 0 ↔ sint64 r.k = 0) := by
    intro h
    rw [niterOf_eq_zero]
    omega
  unfold startsRun
  simp only [← aligned8_iff]
  rcases runRegs_cases r with ⟨hk, he⟩ | ⟨hk, h0, he⟩ | ⟨-, -, hx, he⟩ | ⟨-, -, -, hy, he⟩ | ⟨hk, h0, hx, hy, he⟩
  · simp [he, raiseError_eq]; omega
  · simp [he, markDone_eq, runPrepared, hb, (hn hk).mp h0]
  · simp [he, raiseError_eq, hx]
  · simp [he, raiseError_eq, hy]
  · have hpos : 0 < sint64 r.k := by rw [Ne, hn hk] at h0; omega
    simp [he, hx, hy, hpos]

theorem runRegs_ovr (r : Regs) : (runRegs r).status.ovr = r.status.ovr := by
  rcases runRegs_cases r with ⟨-, he⟩ | ⟨-, -, he⟩ | ⟨-, -, -, he⟩ | ⟨-, -, -, -, he⟩ | ⟨-, -, -, -, he⟩ <;>
    rw [he] <;> rfl

/-- Of the words a host can write to CMD only that of RUN can set BUSY. -/
theorem commandEffect_busy {r : Regs} (hb : r.status.busy = false) (c : Word) :
    (commandEffect c r).status.busy = true ↔ c = encode .run ∧ startsRun r := by
  rcases commandEffect_cases c r with ⟨i, rfl, he⟩ | ⟨hc, c', he⟩
  · rw [he, encode_inj]
    cases i with
    | nop => simp [acceptedRegs, hb]
    | clear => simp [acceptedRegs, clearRegs_eq, hb]
    | step => simp [acceptedRegs, stepRegs_eq, hb]
    | run => simp [acceptedRegs, runRegs_busy hb]
  · simp [he, illegalRegs_eq, hc .run]

/-- Of the words a host can write to CMD only that of CLEAR changes OVR. -/
theorem commandEffect_ovr (c : Word) (r : Regs) :
    (commandEffect c r).status.ovr = true ↔ r.status.ovr = true ∧ c ≠ encode .clear := by
  rcases commandEffect_cases c r with ⟨i, rfl, he⟩ | ⟨hc, c', he⟩
  · rw [he, Ne, encode_inj]
    cases i with
    | nop => simp [acceptedRegs]
    | clear => simp [acceptedRegs, clearRegs_eq]
    | step => simp [acceptedRegs, stepRegs_eq]
    | run => simp [acceptedRegs, runRegs_ovr]
  · simp [he, illegalRegs_eq, hc .clear]

/-! ### What an engine turn does to BUSY and OVR -/

theorem ofNat_toNat_succ_ne (v : Word) : BitVec.ofNat 64 (v.toNat + 1) ≠ v := by
  intro h
  have hn := congrArg BitVec.toNat h
  have hv := v.isLt
  rw [BitVec.toNat_ofNat] at hn
  omega

section
variable {p : Platform} {m m' : Memory} {r r' : Regs} {as : List Word}

theorem engineEffect_idle (h : EngineEffect p m m' r as r') (hb : r.status.busy = false) : r' = r := by
  cases h with
  | idle => rfl
  | pair hb' => rw [hb] at hb'; cases hb'
  | busErrorX hb' => rw [hb] at hb'; cases hb'
  | busErrorY hb' => rw [hb] at hb'; cases hb'

theorem engineEffect_ovr (h : EngineEffect p m m' r as r') : r'.status.ovr = r.status.ovr := by
  cases h with
  | idle => rfl
  | pair => rw [enginePair_eq]; dsimp only; split <;> rfl
  | busErrorX => rfl
  | busErrorY => rfl

/-- An engine step reads the memory port and changes the registers: it advances IDX, or ends the run by a bus error. -/
theorem engineEffect_progress (h : EngineEffect p m m' r as r') (hb : r.status.busy = true) : as ≠ [] ∧ r' ≠ r := by
  have bus_error_ends (a : Word) : engineBusError a r ≠ r := by
    intro he
    have := congrArg (fun r => r.status.busy) he
    rw [hb] at this
    cases this
  cases h with
  | idle hb' => rw [hb] at hb'; cases hb'
  | pair =>
    refine ⟨by simp, fun he => ofNat_toNat_succ_ne r.idx ?_⟩
    rw [enginePair_eq] at he
    exact congrArg (fun r => r.idx) he
  | busErrorX => exact ⟨by simp, bus_error_ends _⟩
  | busErrorY => exact ⟨by simp, bus_error_ends _⟩

/-- An engine step ends the run exactly on the last word pair, or by a bus error, which leaves IDX. -/
theorem engineEffect_busy (h : EngineEffect p m m' r as r') (hb : r.status.busy = true) :
    r'.status.busy = false ↔
      (r'.status.done = true ∧ r.idx.toNat + 1 = r.niter.toNat) ∨
      (r'.status.err = true ∧ r'.status.cause = .busError ∧ r'.idx = r.idx) := by
  cases h with
  | idle hb' => rw [hb] at hb'; cases hb'
  | pair =>
    rw [enginePair_eq]
    by_cases hl : r.idx.toNat + 1 = r.niter.toNat <;> simp [hl, hb, ofNat_toNat_succ_ne]
  | busErrorX => simp [engineBusError_eq]
  | busErrorY => simp [engineBusError_eq]

end

/-! ### BUSY, step by step (R23) -/

section
variable {s t : State}

theorem busy_rises_iff (h : step s = .next t) (hb : s.regs.status.busy = false) :
    t.regs.status.busy = true ↔ turnIs s (cmdWrite s.platform (encode .run)) ∧ startsRun s.regs := by
  rw [cmdWrite_eq]
  cases step_effect h with
  | engine turn m' he => simp [engineEffect_idle he hb, hb, not_turnIs_of_engine turn, writeAt]
  | read _ _ turn ht => simp [ht, hb, turnIs_iff turn, writeAt]
  | memory _ turn ht => simp [ht, hb, turnIs_iff turn, writeAt]
  | reset turn ht => simp [ht, Regs.reset, Status.reset, turnIs_iff turn, writeAt]
  | write off v turn ht =>
    rw [ht, turnIs_iff turn, writeAt_inj, ← regAt_eq_cmd]
    rcases writtenRegs_cases (regAt off) v s.regs with ⟨hb', -⟩ | ⟨-, hc, he⟩ | ⟨-, hc, he⟩
    · rw [hb] at hb'; cases hb'
    · rw [he]; simp [hc, commandEffect_busy hb]
    · simp [he, hc hb, hb]

theorem busy_falls_iff (h : step s = .next t) (hb : s.regs.status.busy = true) :
    t.regs.status.busy = false ↔
      turnIs s .reset ∨
      (turnIsEngine s ∧
        ((t.regs.status.done = true ∧ s.regs.idx.toNat + 1 = s.regs.niter.toNat) ∨
         (t.regs.status.err = true ∧ t.regs.status.cause = .busError ∧ t.regs.idx = s.regs.idx))) := by
  cases step_effect h with
  | engine turn m' he => simp [turn, not_turnIs_of_engine turn, engineEffect_busy he hb]
  | read _ _ turn ht => simp [ht, hb, turnIs_iff turn, turnIsEngine_iff turn]
  | memory _ turn ht => simp [ht, hb, turnIs_iff turn, turnIsEngine_iff turn]
  | reset turn ht => simp [ht, turn, Regs.reset, Status.reset]
  | write off v turn ht =>
    have stays : t.regs.status.busy = true := by
      rw [ht]
      rcases writtenRegs_cases (regAt off) v s.regs with ⟨-, -, he⟩ | ⟨hb', -⟩ | ⟨-, -, he⟩
      · rw [he, dropWrite_eq]; exact hb
      · rw [hb] at hb'; cases hb'
      · rw [he]; exact hb
    simp [stays, turnIs_iff turn, turnIsEngine_iff turn, writeAt]

theorem busy_engine_progress (h : step s = .next t) (hb : s.regs.status.busy = true) (turn : turnIsEngine s) :
    t.reads ≠ [] ∧ t.regs ≠ s.regs := by
  cases step_effect h with
  | engine _ m' he => exact engineEffect_progress he hb
  | read _ _ turn' => exact absurd turn' (not_turnIs_of_engine turn nofun)
  | write _ _ turn' => exact absurd turn' (not_turnIs_of_engine turn nofun)
  | memory _ turn' => exact absurd turn' (not_turnIs_of_engine turn nofun)
  | reset turn' => exact absurd turn' (not_turnIs_of_engine turn nofun)

theorem busy_write_dropped {off : Nat} {v : Word} (h : step s = .next t) (hb : s.regs.status.busy = true)
    (hoff : off = 0x00 ∨ off = 0x10 ∨ off = 0x18 ∨ off = 0x20) (turn : turnIs s (writeAt s.platform off v)) :
    t.regs = { s.regs with status := { s.regs.status with ovr := true } } := by
  rw [step_write h turn, writtenRegs_dropped hb (busyGuarded_regAt.mpr hoff), dropWrite_eq]

/-! ### OVR, step by step (R26) -/

theorem ovr_rises_iff (h : step s = .next t) (ho : s.regs.status.ovr = false) :
    t.regs.status.ovr = true ↔
      s.regs.status.busy = true ∧ ∃ off v, turnIs s (writeAt s.platform off v) ∧
        (off = 0x00 ∨ off = 0x10 ∨ off = 0x18 ∨ off = 0x20) := by
  simp only [← busyGuarded_regAt]
  cases step_effect h with
  | engine turn m' he => simp [engineEffect_ovr he, ho, not_turnIs_of_engine turn, writeAt]
  | read _ _ turn ht => simp [ht, ho, turnIs_iff turn, writeAt]
  | memory _ turn ht => simp [ht, ho, turnIs_iff turn, writeAt]
  | reset turn ht => simp [ht, Regs.reset, Status.reset, turnIs_iff turn, writeAt]
  | write off v turn ht =>
    simp only [ht, turnIs_iff turn, writeAt_inj]
    rcases writtenRegs_cases (regAt off) v s.regs with ⟨hb, hg, he⟩ | ⟨hb, -, he⟩ | ⟨hg, -, he⟩
    · simp [he, dropWrite_eq, hb, hg]
    · simp [he, commandEffect_ovr, ho, hb]
    · simpa [he, ho] using hg

theorem ovr_falls_iff (h : step s = .next t) (ho : s.regs.status.ovr = true) :
    t.regs.status.ovr = false ↔
      turnIs s .reset ∨ (s.regs.status.busy = false ∧ turnIs s (cmdWrite s.platform (encode .clear))) := by
  rw [cmdWrite_eq]
  cases step_effect h with
  | engine turn m' he => simp [engineEffect_ovr he, ho, not_turnIs_of_engine turn, writeAt]
  | read _ _ turn ht => simp [ht, ho, turnIs_iff turn, writeAt]
  | memory _ turn ht => simp [ht, ho, turnIs_iff turn, writeAt]
  | reset turn ht => simp [ht, turn, Regs.reset, Status.reset]
  | write off v turn ht =>
    rw [ht, turnIs_iff turn, turnIs_iff turn, writeAt_inj, ← regAt_eq_cmd]
    rcases writtenRegs_cases (regAt off) v s.regs with ⟨hb, -, he⟩ | ⟨hb, hc, he⟩ | ⟨-, hc, he⟩
    · simp [he, dropWrite_eq, hb, writeAt]
    · rw [he, ← Bool.not_eq_true, commandEffect_ovr]; simp [ho, hb, hc, writeAt]
    · simpa [he, ho, writeAt] using fun hb hcmd => absurd hcmd (hc hb)

/-- A step that sets OVR is a dropped write, and leaves ERR and CAUSE alone. -/
theorem ovr_rise_keeps_error (h : step s = .next t) (ho : s.regs.status.ovr = false)
    (ho' : t.regs.status.ovr = true) :
    t.regs.status.err = s.regs.status.err ∧ t.regs.status.cause = s.regs.status.cause := by
  obtain ⟨hb, off, v, turn, hoff⟩ := (ovr_rises_iff h ho).mp ho'
  rw [busy_write_dropped h hb hoff turn]
  exact ⟨rfl, rfl⟩

end

/-- Settles O44: each clause is read off what a step does to the registers, turn by turn. -/
theorem busyRisesAndFallsAsStated : Obligations.BusyRisesAndFallsAsStated :=
  ⟨rfl, fun _ _ _ => rfl, fun _ _ h =>
    ⟨busy_rises_iff h, fun hb =>
      ⟨busy_falls_iff h hb, busy_engine_progress h hb, fun _ _ => busy_write_dropped h hb⟩⟩⟩

/-- Settles O45: only a dropped write, an accepted CLEAR and reset change OVR, among all turns. -/
theorem overrunIsSticky : Obligations.OverrunIsSticky :=
  ⟨rfl, fun _ => rfl, fun _ _ h =>
    ⟨fun ho => ⟨ovr_rises_iff h ho, ovr_rise_keeps_error h ho⟩, ovr_falls_iff h⟩⟩

end Sys2Proof.Proofs
end

section
/-! PROOFS. The words of memory (20_memory.md R51, R52): the little-endian value of bytes as a sum and byte by byte, and
what `MemRead` answers in these terms. -/

namespace Sys2Proof.Proofs
open Sys2Proof.Machine

/-! ### Little-endian values -/

theorem leValue_range_succ (f : Nat → Byte) (n : Nat) :
    leValue ((List.range (n + 1)).map f) =
      (f 0).toNat + 256 * leValue ((List.range n).map fun j => f (j + 1)) := by
  rw [List.range_succ_eq_map, List.map_cons, List.map_map]
  rfl

theorem leValue_range_eq_sum (f : Nat → Byte) (n : Nat) :
    leValue ((List.range n).map f) = ∑ j ∈ Finset.range n, (f j).toNat * 2 ^ (8 * j) := by
  induction n generalizing f with
  | zero => rfl
  | succ n ih =>
    have shift (j : Nat) : (f (j + 1)).toNat * 2 ^ (8 * (j + 1)) = 256 * ((f (j + 1)).toNat * 2 ^ (8 * j)) := by
      ring
    rw [leValue_range_succ, ih, Finset.sum_range_succ', Finset.mul_sum, Finset.sum_congr rfl fun j _ => shift j]
    simp [add_comm]

theorem leValue_lt (bs : List Byte) : leValue bs < 2 ^ (8 * bs.length) := by
  induction bs with
  | nil => exact Nat.one_pos
  | cons b bs ih =>
    have hb := b.isLt
    rw [leValue, List.length_cons, Nat.mul_succ, pow_add]
    omega

theorem leValue_range_byte {n j : Nat} (f : Nat → Byte) (h : j < n) :
    leValue ((List.range n).map f) / 2 ^ (8 * j) % 256 = (f j).toNat := by
  induction n generalizing f j with
  | zero => omega
  | succ n ih =>
    have hb := (f 0).isLt
    rw [leValue_range_succ]
    cases j with
    | zero => simp only [Nat.mul_zero, pow_zero, Nat.div_one]; omega
    | succ j =>
      rw [← ih (fun j => f (j + 1)) (by omega), Nat.mul_succ, pow_add, mul_comm (2 ^ (8 * j)), ← Nat.div_div_eq_div_mul]
      congr 2
      omega

/-! ### Memory words -/

theorem memWord_toNat_eq_leValue (m : Memory) (a : Word) :
    (memWord m a).toNat = leValue ((List.range 8).map fun j => memGet m (a + BitVec.ofNat 64 j).toNat) := by
  rw [memWord, BitVec.toNat_ofNat]
  exact Nat.mod_eq_of_lt (by simpa using leValue_lt ((List.range 8).map _))

theorem memWord_byte (m : Memory) (a : Word) {j : Nat} (h : j < 8) :
    (memWord m a).extractLsb' (8 * j) 8 = memGet m (a + BitVec.ofNat 64 j).toNat := by
  apply BitVec.eq_of_toNat_eq
  rw [BitVec.extractLsb'_toNat, Nat.shiftRight_eq_div_pow, memWord_toNat_eq_leValue]
  exact leValue_range_byte (fun j => memGet m (a + BitVec.ofNat 64 j).toNat) h

/-- The 8 bytes of an aligned word do not run over the end of the memory space. -/
theorem toNat_add_of_aligned {a : Word} {j : Nat} (ha : a.toNat % 8 = 0) (h : j < 8) :
    (a + BitVec.ofNat 64 j).toNat = a.toNat + j := by
  have hlt := a.isLt
  rw [BitVec.toNat_add, BitVec.toNat_ofNat]
  omega

theorem memWord_toNat_of_aligned (m : Memory) {a : Word} (ha : a.toNat % 8 = 0) :
    (memWord m a).toNat = ∑ j ∈ Finset.range 8, (memGet m (a.toNat + j)).toNat * 2 ^ (8 * j) := by
  rw [memWord_toNat_eq_leValue, leValue_range_eq_sum]
  refine Finset.sum_congr rfl fun j hj => ?_
  rw [toNat_add_of_aligned ha (Finset.mem_range.mp hj)]

theorem memRead_eq_word {s : State} {a v : Word} :
    memRead s a = .word v ↔ a.toNat % 8 = 0 ∧ memAdmit s.platform a = true ∧ v = memWord s.mem a := by
  rw [← aligned8_iff]
  rcases memRead_cases s a with ⟨ha, hadm, he⟩ | ⟨ha, hadm, he⟩ | ⟨ha, he⟩
  · simp [he, ha, hadm, eq_comm]
  · simp [he, hadm]
  · simp [he, ha]

theorem eq_memWord_of_memRead {s : State} {a v : Word} (h : memRead s a = .word v) : v = memWord s.mem a := by
  obtain ⟨-, -, hv⟩ := memRead_eq_word.mp h
  exact hv

/-- Settles O14: an aligned read answers `memWord`, whose value is the sum of its bytes. -/
theorem memReadSumsEightBytes : Obligations.MemReadSumsEightBytes :=
  fun _ _ ha =>
    ⟨memRead_busErr (aligned8_iff.mpr ha), fun hadm =>
      ⟨_, memRead_word (aligned8_iff.mpr ha) hadm, memWord_toNat_of_aligned _ ha⟩⟩

/-- Settles O15: each byte of the word that stands at an aligned address is the memory's. -/
theorem wordsAreLittleEndian : Obligations.WordsAreLittleEndian := by
  intro s a v hv j hj
  obtain ⟨ha, -, rfl⟩ := memRead_eq_word.mp hv
  rw [memWord_byte s.mem a hj, toNat_add_of_aligned ha hj]

end Sys2Proof.Proofs
end

section
/-! PROOFS. The memory port and the platform's memory in every step (20_memory.md R50, R56): what an engine turn reads
and keeps, and where memory can change. -/

namespace Sys2Proof.Proofs
open Sys2Proof.Machine

/-! ### Engine turns -/

section
variable {s t : State}

/-- A step of the engine is its turn with the writes that land in it, whether the turn is pending or the default one. -/
theorem step_engineTurn (turn : turnIsEngine s) (h : step s = .next t) :
    engineTurn (turnWrites s) (turnTaken s (laterTurns s)) = .next t := by
  rw [turnWrites, laterTurns]
  rcases step_cases h with ⟨hp, he⟩ | ⟨e, rest, hp, -⟩
  · rw [hp]; exact he
  · obtain ⟨ws, rfl⟩ := (turnIsEngine_iff (e := e) (by rw [turnIs, hp]; rfl)).mp turn
    rw [hp, ← h, step_cons hp]
    rfl

theorem step_engine_effect (turn : turnIsEngine s) (h : step s = .next t) :
    EngineEffect s.platform s.mem (landWrites s.mem (turnWrites s)) s.regs t.reads t.regs := by
  obtain ⟨as, r, he, -, rfl⟩ := engineTurn_cases (step_engineTurn turn h)
  exact he

end

theorem engineEffect_bases {p : Platform} {m m' : Memory} {r r' : Regs} {as : List Word}
    (h : EngineEffect p m m' r as r') : r'.xBase = r.xBase ∧ r'.yBase = r.yBase := by
  cases h with
  | idle => exact ⟨rfl, rfl⟩
  | pair => simp [enginePair_eq]
  | busErrorX => exact ⟨rfl, rfl⟩
  | busErrorY => exact ⟨rfl, rfl⟩

/-- Settles O17: the addresses are `wordAddr`'s, the words what `memRead` answers, and no effect of an engine turn
touches a base. -/
theorem effectiveAddressesWrap : Obligations.EffectiveAddressesWrap :=
  ⟨fun s i =>
    ⟨wordAddr_toNat s.regs.xBase i, wordAddr_toNat s.regs.yBase i,
      fun _ => eq_memWord_of_memRead, fun _ => eq_memWord_of_memRead⟩,
   fun _ _ turn h => engineEffect_bases (step_engine_effect turn h)⟩

/-! ### Writes of other agents -/

theorem not_covers_iff {w : MemWrite} {a : Word} :
    w.covers a = false ↔ ∀ j < w.bytes.length, w.addr + BitVec.ofNat 64 j ≠ a := by
  simp [MemWrite.covers]

theorem memGet_landWrites_of_not_covers {a : Word} (ws : List MemWrite) (m : Memory)
    (h : ∀ w ∈ ws, w.covers a = false) : memGet (landWrites m ws) a.toNat = memGet m a.toNat := by
  induction ws generalizing m with
  | nil => rfl
  | cons w ws ih =>
    obtain ⟨hw, hws⟩ := List.forall_mem_cons.mp h
    calc memGet (landWrites (landWrite m w) ws) a.toNat
        = memGet (landWrite m w) a.toNat := ih _ hws
      _ = memGet m a.toNat := memGet_memSetBytes_other _ _ _ (not_covers_iff.mp hw)

/-! ### Every step -/

theorem hostAccess_mem_reads {a : HostAccess} {s t : State} (h : hostAccess a s = .next t) :
    t.mem = s.mem ∧ t.reads = s.reads := by
  rcases hostAccess_cases h with ⟨_, _, _, -, -, rfl⟩ | ⟨_, _, _, _, _, -, -, -, rfl⟩
  · exact ⟨rfl, rfl⟩
  · exact ⟨rfl, rfl⟩

theorem engineTurn_mem_reads {ws : List MemWrite} {s t : State} (h : engineTurn ws s = .next t) :
    t.mem = landWrites s.mem ws ∧ ∃ as, t.reads = s.reads ++ as ∧ ∀ a ∈ as, aligned8 a = true := by
  obtain ⟨as, r, -, ha, rfl⟩ := engineTurn_cases h
  exact ⟨rfl, as, rfl, ha⟩

/-- Every step leaves the memory with exactly the writes of other agents landed, and reads only at multiples of 8. -/
theorem step_mem_reads {s t : State} (h : step s = .next t) :
    t.mem = landWrites s.mem (turnWrites s) ∧ ∀ a ∈ t.reads, aligned8 a = true := by
  rcases step_cases h with ⟨hp, he⟩ | ⟨e, rest, hp, he⟩
  · rw [turnWrites, hp]
    obtain ⟨hm, as, hr, ha⟩ := engineTurn_mem_reads he
    exact ⟨hm, hr ▸ ha⟩
  rw [turnWrites, hp]
  rcases he with ⟨a, rfl, he⟩ | ⟨ws, rfl, he⟩ | ⟨w, rfl, rfl⟩ | ⟨rfl, rfl⟩
  · obtain ⟨hm, hr⟩ := hostAccess_mem_reads he
    exact ⟨hm, by simp [hr]⟩
  · obtain ⟨hm, as, hr, ha⟩ := engineTurn_mem_reads he
    exact ⟨hm, hr ▸ ha⟩
  · exact ⟨rfl, by simp⟩
  · exact ⟨rfl, by simp⟩

/-- Settles O20: the memory after a step is that before it with the other agents' writes landed. -/
theorem blockOnlyReadsMemory : Obligations.BlockOnlyReadsMemory := by
  intro s t h
  obtain ⟨hm, hr⟩ := step_mem_reads h
  refine ⟨fun a ha => aligned8_iff.mp (hr a ha), fun hw a => ?_, fun a hc => ?_⟩
  · rw [hm, hw]; rfl
  · rw [hm]; exact memGet_landWrites_of_not_covers _ _ hc

end Sys2Proof.Proofs
end


section
/-! PROOFS. The command encoding (30_encoding.md R70 to R75): the decoder on every 64-bit word, and what the step of an
admitted host write is, so that a dropped command word can be read off it. -/

namespace Sys2Proof.Proofs
open Sys2Proof.Machine

/-! ### Fields of a command word as numbers (R71) -/

theorem rsvField_toNat (c : Word) : (rsvField c).toNat = c.toNat / 16 := by
  have hc := c.isLt
  simp only [rsvField, BitVec.extractLsb'_toNat, Nat.shiftRight_eq_div_pow]
  omega

theorem opField_toNat (c : Word) : (opField c).toNat = c.toNat % 16 := by
  rw [opField, BitVec.extractLsb'_toNat, Nat.shiftRight_zero]

theorem rsvField_eq_zero {c : Word} : rsvField c = 0 ↔ c.toNat / 16 = 0 := by
  rw [← BitVec.toNat_inj, rsvField_toNat]
  rfl

theorem opField_eq_iff {c : Word} {op : BitVec 4} : opField c = op ↔ c.toNat % 16 = op.toNat := by
  rw [← BitVec.toNat_inj, opField_toNat]

/-- R75's chain of tests, each on the number of the word. -/
theorem decode_eq_of_toNat (c : Word) :
    decode c =
      if c.toNat / 16 ≠ 0 then .illegal c
      else if c.toNat % 16 = 0 then .command .nop
      else if c.toNat % 16 = 1 then .command .clear
      else if c.toNat % 16 = 2 then .command .step
      else if c.toNat % 16 = 3 then .command .run
      else .illegal c := by
  simp only [decode, ne_eq, rsvField_eq_zero, opField_eq_iff, BitVec.reduceToNat]

/-! ### The mask of the opcode map (R73) -/

theorem and_fullMask (c : Word) : c &&& 0xFFFFFFFFFFFFFFFF = c := BitVec.and_allOnes

/-- Settles O2: the mask keeps the whole word, so the match is equality with the word of the instruction. -/
theorem decodeMatchesExactlyTheEncodedWord : Obligations.DecodeMatchesExactlyTheEncodedWord := by
  refine ⟨⟨rfl, rfl, rfl, rfl⟩, fun c i => ?_⟩
  rw [and_fullMask]
  exact decode_eq_command

/-! ### Steps whose turn is an admitted host write (R150) -/

section
variable {s : State} {rest : List Event}

theorem step_writeAt {off : Nat} {v : Word} (hp : s.pending = writeAt s.platform off v :: rest)
    (h8 : off % 8 = 0) (hw : off < 0x80) :
    step s = .next ((turnTaken s rest).setRegs (writtenRegs (regAt off) v s.regs)) := by
  have admitted : accessOffset (turnTaken s rest).platform 64 (s.platform.blockBase + off) = some off :=
    accessOffset_base_add s.platform h8 hw
  calc step s = hostAccess (.write 64 (s.platform.blockBase + off) v) (turnTaken s rest) := step_cons hp
    _ = portWrite (regAt off) v (turnTaken s rest) := by rw [hostAccess, admitted]
    _ = .next ((turnTaken s rest).setRegs (writtenRegs (regAt off) v s.regs)) := portWrite_eq _ _ _

theorem step_cmdWrite {c : Word} (hp : s.pending = cmdWrite s.platform c :: rest) :
    step s = .next ((turnTaken s rest).setRegs (writtenRegs (some .cmd) c s.regs)) :=
  step_writeAt hp rfl (by decide)

theorem step_cmdWrite_busy {c : Word} (hp : s.pending = cmdWrite s.platform c :: rest)
    (hb : s.regs.status.busy = true) : step s = .next ((turnTaken s rest).setRegs (dropWrite s.regs)) := by
  rw [step_cmdWrite hp, writtenRegs_dropped hb rfl]

end

/-- Settles O3: the decoder is the chain on the word's number, and a CMD write while BUSY = 1 is dropped. -/
theorem decodeIsTotal : Obligations.DecodeIsTotal := by
  refine ⟨fun c => ?_, fun s c rest hp hb => step_cmdWrite_busy hp hb⟩
  rw [decode_eq_of_toNat]
  split_ifs <;> rfl

end Sys2Proof.Proofs
end

section
/-! PROOFS. The datapath (40_datapath.md R101): the population count as a count of bit positions. -/

namespace Sys2Proof.Proofs
open Sys2Proof.Machine

/-! ### POPCOUNT64 (R101) -/

/-- The model adds the 64 bits as numbers; a sum of zeros and ones counts the ones. -/
theorem popcount64_eq_card (v : Word) :
    popcount64 v = (Finset.univ.filter fun j : Fin 64 => v.getLsbD j = true).card :=
  calc popcount64 v
    _ = ∑ j ∈ Finset.range 64, (v.getLsbD j).toNat := rfl
    _ = ∑ j : Fin 64, (v.getLsbD j).toNat := Finset.sum_range _
    _ = ∑ j : Fin 64, if v.getLsbD j = true then 1 else 0 :=
      Finset.sum_congr rfl fun j _ => Bool.cond_eq_ite (v.getLsbD j) 1 0
    _ = (Finset.univ.filter fun j : Fin 64 => v.getLsbD j = true).card := (Finset.card_filter _ _).symm

/-- Settles O5: the sum of the bits is the count of the positions set, and the four fixed words evaluate. -/
theorem popcountCountsTheSetBits : Obligations.PopcountCountsTheSetBits :=
  ⟨fun v => ⟨popcount64_eq_card v, popcount64_le v⟩, rfl, rfl, rfl, rfl⟩

end Sys2Proof.Proofs
end

section
/-! PROOFS. The commands (41_commands.md R120 to R128): what a CMD write does whether it is accepted or dropped, and the
engine step of a run, each with its whole next state. -/

namespace Sys2Proof.Proofs
open Sys2Proof.Machine

/-! ### Commands accepted and dropped (R120) -/

section
variable {s : State}

theorem exec_idle (hb : s.regs.status.busy = false) (i : Instr) :
    exec i s = .next (s.setRegs (acceptedRegs i s.regs)) := by
  rw [exec_eq, acceptCommand_idle hb]

theorem exec_busy (hb : s.regs.status.busy = true) (i : Instr) : exec i s = .next (s.setRegs (dropWrite s.regs)) := by
  rw [exec_eq, acceptCommand_busy hb]

end

/-- CLEAR is the only command whose accepted effect touches OVR (R123). -/
theorem acceptedRegs_ovr {i : Instr} (hi : i ≠ .clear) (r : Regs) :
    (acceptedRegs i r).status.ovr = r.status.ovr := by
  cases i with
  | nop => rfl
  | clear => exact absurd rfl hi
  | step => rfl
  | run => exact runRegs_ovr r

theorem exec_keeps_ovr {i : Instr} {s t : State} (hi : i ≠ .clear) (h : exec i s = .next t)
    (ho : s.regs.status.ovr = true) : t.regs.status.ovr = true := by
  rcases exec_cases h with ⟨-, rfl⟩ | ⟨-, rfl⟩
  · rfl
  · rw [State.setRegs_regs, acceptedRegs_ovr hi, ho]

/-- Settles O22: an accepted NOP has the identity as its effect; a dropped one sets OVR. -/
theorem nopChangesNothing : Obligations.NopChangesNothing :=
  fun _ => ⟨fun hb => exec_idle hb .nop, fun hb => exec_busy hb .nop⟩

/-- Settles O23: the effect of CLEAR with BUSY known to be 0, the dropped form, and OVR under the other commands. -/
theorem clearClearsTheResult : Obligations.ClearClearsTheResult := by
  refine ⟨fun s => ⟨fun hb => ?_, fun hb => exec_busy hb .clear⟩, fun i s t => exec_keeps_ovr⟩
  rw [exec_idle hb, acceptedRegs, clearRegs_eq, hb]
  rfl

/-! ### STEP (R124) -/

theorem pxa_eq_card (a b : Word) :
    pxa a b = (Finset.univ.filter fun j : Fin 64 => a.getLsbD j ≠ b.getLsbD j).card := by
  rw [pxa, popcount64_eq_card]
  simp only [xor64, BitVec.getLsbD_xor, bne_iff_ne]

/-- Settles O24: the effect of STEP, PXA being the count of differing bits. -/
theorem stepAccumulatesItsOperands : Obligations.StepAccumulatesItsOperands := by
  intro s hb
  rw [← pxa_eq_card]
  exact exec_idle hb .step

/-! ### RUN, the acceptance phase (R125) -/

theorem niterOf_eq_div (k : Nat) : niterOf k = (k + 63) / 64 := by
  unfold niterOf
  split <;> omega

theorem aligned8_eq_false_iff {a : Word} : aligned8 a = false ↔ a.toNat % 8 ≠ 0 := by
  rw [← Bool.not_eq_true, aligned8_iff]

/-- An empty run of an idle block is done at once. -/
theorem markDone_runPrepared_idle {r : Regs} (hb : r.status.busy = false) :
    markDone (runPrepared 0 r) =
      { r with acc := 0, idx := 0, niter := 0, faultInfo := 0,
               status := { busy := false, done := true, err := false, ovr := r.status.ovr, cause := .none } } := by
  simp [markDone_eq, runPrepared, hb]

/-- Settles O25: the five ways an accepted RUN can go are the five branches of the rule, in order. -/
theorem runAcceptance : Obligations.RunAcceptance := by
  intro s hb
  dsimp only
  rw [exec_idle hb, acceptedRegs, ← niterOf_eq_div]
  rcases runRegs_cases s.regs with ⟨hk, he⟩ | ⟨hk, hn, he⟩ | ⟨hk, hn, hx, he⟩ | ⟨hk, hn, hx, hy, he⟩ |
    ⟨hk, hn, hx, hy, he⟩
  · rw [he, if_pos hk]; rfl
  · rw [he, if_neg hk.not_gt, if_pos hn, markDone_runPrepared_idle hb]; rfl
  · rw [he, if_neg hk.not_gt, if_neg hn, if_pos (aligned8_eq_false_iff.mp hx)]; rfl
  · rw [he, if_neg hk.not_gt, if_neg hn, if_neg (not_not.mpr (aligned8_iff.mp hx)),
      if_pos (aligned8_eq_false_iff.mp hy)]; rfl
  · rw [he, if_neg hk.not_gt, if_neg hn, if_neg (not_not.mpr (aligned8_iff.mp hx)),
      if_neg (not_not.mpr (aligned8_iff.mp hy))]; rfl

/-! ### Command words as CMD writes (R120, R121, R128) -/

theorem commandEffect_command {c : Word} {i : Instr} (hd : decode c = .command i) :
    commandEffect c = acceptedRegs i := by
  funext r
  rw [commandEffect, hd]

theorem commandEffect_illegal {c c' : Word} (hd : decode c = .illegal c') : commandEffect c = illegalRegs c' := by
  funext r
  rw [commandEffect, hd]

/-- R128's words: a reserved bit set, or an OP the opcode map does not name. -/
theorem decode_illegal {c : Word} (h : c.toNat / 16 ≠ 0 ∨ 4 ≤ c.toNat % 16) : decode c = .illegal c := by
  rw [decode_eq_of_toNat]
  rcases h with reserved | unknown
  · rw [if_pos reserved]
  · rw [if_neg (by omega : ¬ c.toNat % 16 = 0), if_neg (by omega : ¬ c.toNat % 16 = 1),
      if_neg (by omega : ¬ c.toNat % 16 = 2), if_neg (by omega : ¬ c.toNat % 16 = 3), ite_self]

section
variable {s : State} {c : Word} {rest : List Event}

theorem step_cmdWrite_command {i : Instr} (hp : s.pending = cmdWrite s.platform c :: rest)
    (hd : decode c = .command i) : step s = exec i (turnTaken s rest) := by
  rw [step_cmdWrite hp, writtenRegs, commandEffect_command hd, exec_eq]
  rfl

theorem step_cmdWrite_illegal (hp : s.pending = cmdWrite s.platform c :: rest) (hb : s.regs.status.busy = false)
    (hd : decode c = .illegal c) : step s = .next ((turnTaken s rest).setRegs (illegalRegs c s.regs)) := by
  rw [step_cmdWrite hp, writtenRegs_command hb, commandEffect_illegal hd]

end

/-- Recording an illegal word in an idle block leaves BUSY as it is, at 0 (R128). -/
theorem illegalRegs_idle {r : Regs} (hb : r.status.busy = false) (c : Word) :
    illegalRegs c r =
      { r with faultInfo := c, status := { r.status with done := false, err := true, cause := .illegalCmd } } := by
  rw [illegalRegs_eq, ← hb]

/-- Settles O30: the dropped write, and the accepted one by what its word decodes to. -/
theorem commandWritesAreHandledAtOnce : Obligations.CommandWritesAreHandledAtOnce := by
  intro s c rest hp
  refine ⟨fun hb => step_cmdWrite_busy hp hb, fun hb => ⟨fun i hd => step_cmdWrite_command hp hd, fun hd => ?_⟩⟩
  rw [step_cmdWrite_illegal hp hb hd, illegalRegs_idle hb]
  rfl

/-- Settles O29: the words R128 names decode as illegal, and an accepted illegal word is recorded. -/
theorem illegalWordIsRecorded : Obligations.IllegalWordIsRecorded := by
  refine ⟨rfl, fun s c rest hb hc hp => ?_⟩
  obtain ⟨-, accepted⟩ := commandWritesAreHandledAtOnce s c rest hp
  obtain ⟨-, recorded⟩ := accepted hb
  exact recorded (decode_illegal hc)

/-- What StatusReset clears, every command but NOP writes or clears itself (R121). -/
theorem acceptedRegs_statusReset {i : Instr} (hi : i ≠ .nop) (r : Regs) :
    acceptedRegs i (statusReset r) = acceptedRegs i r := by
  cases i with
  | nop => exact absurd rfl hi
  | clear => rfl
  | step => rfl
  | run => rfl

/-- Settles O32: StatusReset twice is StatusReset once, for the three commands and for an illegal word. -/
theorem commandsBeginWithStatusReset : Obligations.CommandsBeginWithStatusReset := by
  refine ⟨statusReset_eq, fun i s hi hb => ?_, fun s c rest hp hd hb => ?_⟩
  · rw [exec_idle hb, exec_idle (s := { s with regs := statusReset s.regs }) hb, acceptedRegs_statusReset hi]
    rfl
  · rw [step_cmdWrite_illegal hp hb hd,
      step_cmdWrite_illegal (s := { s with regs := statusReset s.regs }) hp hb hd]
    rfl

/-! ### The engine step (R126) -/

theorem addrX_aligned {r : Regs} (h : r.xBase.toNat % 8 = 0) (i : Nat) : aligned8 (addrX r i) = true :=
  wordAddr_aligned (aligned8_iff.mpr h) i

theorem addrY_aligned {r : Regs} (h : r.yBase.toNat % 8 = 0) (i : Nat) : aligned8 (addrY r i) = true :=
  wordAddr_aligned (aligned8_iff.mpr h) i

/-- With aligned bases the engine step never faults: it asks the platform twice, x before y. -/
theorem enginePairStep_aligned {s : State} (hx : s.regs.xBase.toNat % 8 = 0) (hy : s.regs.yBase.toNat % 8 = 0)
    (ws : List MemWrite) (i : Nat) :
    enginePairStep ws i s =
      let ax := addrX s.regs i
      let ay := addrY s.regs i
      let m := landWrites s.mem ws
      if memAdmit s.platform ax = false then
        .next { s with mem := m, reads := s.reads ++ [ax], regs := engineBusError ax s.regs }
      else if memAdmit s.platform ay = false then
        .next { s with mem := m, reads := s.reads ++ [ax] ++ [ay], regs := engineBusError ay s.regs }
      else
        .next { s with mem := m, reads := s.reads ++ [ax] ++ [ay],
                       regs := enginePair (memWord s.mem ax) (memWord m ay) s.regs } := by
  simp only [enginePairStep_eq, addrX_aligned hx, addrY_aligned hy, Bool.true_eq_false, if_false]

/-- Settles O34: the engine's turn by BUSY, then by what the platform answers to the x read and to the y read. -/
theorem engineStepProcessesOneWordPair : Obligations.EngineStepProcessesOneWordPair := by
  intro s rest hp hx hy
  dsimp only
  have turn : step s = engineTurn [] (turnTaken s rest) := step_cons hp
  cases hb : s.regs.status.busy with
  | false => rw [turn, engineTurn_idle (s := turnTaken s rest) hb]; rfl
  | true =>
    rw [turn, engineTurn_busy (s := turnTaken s rest) hb, enginePairStep_aligned (s := turnTaken s rest) hx hy]
    dsimp only
    rw [enginePair_eq, if_neg (Bool.noConfusion : ¬ true = false)]
    rfl

end Sys2Proof.Proofs
end

section
/-! PROOFS. The register port (42_register_access.md R150 to R157): which host accesses are refused, what a read of each
offset answers, what a write of each offset does, and that no engine turn depends on the operands of STEP. -/

namespace Sys2Proof.Proofs
open Sys2Proof.Machine

/-! ### Offsets of the window (R20, R37) -/

theorem offset_lt (reg : RegName) : reg.offset < 0x58 := by cases reg <;> decide

theorem offset_aligned (reg : RegName) : reg.offset % 8 = 0 := by cases reg <;> rfl

/-- Each test of the chain in `regAt` names its own register; that the tests before it fail is arithmetic on the offset. -/
theorem regAt_eq_some {off : Nat} {reg : RegName} : regAt off = some reg ↔ off = reg.offset := by
  simp only [regAt, ite_eq_iff, Option.some.injEq]
  cases reg <;> simp only [RegName.offset, reduceCtorEq, and_true, and_false, or_false, false_or] <;> omega

/-- The offsets from 0x58 on are reserved (R37). -/
theorem regAt_eq_none {off : Nat} (h : 0x58 ≤ off) : regAt off = none := by
  cases hr : regAt off with
  | none => rfl
  | some reg =>
    have hoff := regAt_eq_some.mp hr
    have hlt := offset_lt reg
    omega

/-! ### Refusals (R150) -/

theorem accessOffset_eq_none {p : Platform} {width addr : Nat} :
    accessOffset p width addr = none ↔
      ¬ (width = 64 ∧ ∃ off, addr = p.blockBase + off ∧ off % 8 = 0 ∧ off < 0x80) := by
  rw [Option.eq_none_iff_forall_ne_some]
  constructor
  · rintro noOffset ⟨rfl, off, rfl, h8, hlt⟩
    exact noOffset off (accessOffset_base_add p h8 hlt)
  · intro outside off ho
    obtain ⟨hw, hle, h8, hlt, -⟩ := accessOffset_eq_some.mp ho
    exact outside ⟨hw, addr - p.blockBase, by omega, h8, hlt⟩

section
variable {s : State} {q : Refusal}

theorem hostRead_refused {width addr : Nat} :
    hostAccess (.read width addr) s = .refused q ↔
      q = .accessNotAdmitted ∧ accessOffset s.platform width addr = none := by
  rw [hostAccess]
  cases accessOffset s.platform width addr <;> simp [eq_comm]

theorem hostWrite_refused {width addr : Nat} {v : Word} :
    hostAccess (.write width addr v) s = .refused q ↔
      q = .accessNotAdmitted ∧ accessOffset s.platform width addr = none := by
  rw [hostAccess]
  cases accessOffset s.platform width addr <;> simp [eq_comm, portWrite_eq]

theorem hostAccess_refused {a : HostAccess} (h : hostAccess a s = .refused q) : q = .accessNotAdmitted := by
  cases a with
  | read => exact (hostRead_refused.mp h).1
  | write => exact (hostWrite_refused.mp h).1

theorem engineTurn_not_refused (ws : List MemWrite) : engineTurn ws s ≠ .refused q := by
  cases hb : s.regs.status.busy with
  | false => rw [engineTurn_idle hb]; nofun
  | true => rw [engineTurn_busy hb, enginePairStep_eq]; split_ifs <;> nofun

/-- Only the turn of a host can be refused. -/
theorem step_refused (h : step s = .refused q) : q = .accessNotAdmitted ∧ ∃ a, turnIs s (.host a) := by
  cases hp : s.pending with
  | nil =>
    rw [step_nil hp] at h
    exact absurd h (engineTurn_not_refused _)
  | cons e rest =>
    rw [step_cons hp] at h
    cases e with
    | host a => exact ⟨hostAccess_refused h, a, by rw [turnIs, hp]; rfl⟩
    | engine ws => exact absurd h (engineTurn_not_refused ws)
    | memory w => cases h
    | reset => cases h

end

/-- Settles O37: a read and a write are refused exactly when they have no offset in the window, and no other agent's turn
is refused. -/
theorem onlyAdmittedAccessesAreCarriedOut : Obligations.OnlyAdmittedAccessesAreCarriedOut := by
  refine ⟨fun s rest width addr v hp => ?_, fun s q => step_refused⟩
  rw [← accessOffset_eq_none]
  rcases hp with hp | hp
  · rw [step_cons hp]
    exact hostRead_refused.trans (and_iff_right rfl)
  · rw [step_cons hp]
    exact hostWrite_refused.trans (and_iff_right rfl)

/-! ### Reads (R151, R152) -/

section
variable {s : State} {rest : List Event}

theorem step_readAt {off : Nat} (hp : s.pending = readAt s.platform off :: rest) (h8 : off % 8 = 0) (hw : off < 0x80) :
    step s = .next ((turnTaken s rest).setReply (some (portRead (regAt off) s.regs))) := by
  have admitted : accessOffset (turnTaken s rest).platform 64 (s.platform.blockBase + off) = some off :=
    accessOffset_base_add s.platform h8 hw
  calc step s = hostAccess (.read 64 (s.platform.blockBase + off)) (turnTaken s rest) := step_cons hp
    _ = .next ((turnTaken s rest).setReply (some (portRead (regAt off) s.regs))) := by
      rw [hostAccess, admitted]; rfl

/-- A write at the offset of a register is a write of that register. -/
theorem step_writeReg {reg : RegName} {v : Word} (hp : s.pending = writeAt s.platform reg.offset v :: rest) :
    step s = .next ((turnTaken s rest).setRegs (writtenRegs (some reg) v s.regs)) := by
  have hlt := offset_lt reg
  rw [step_writeAt hp (offset_aligned reg) (by omega), regAt_eq_some.mpr rfl]

end

/-- Settles O38: the step of a read puts the port's answer on the reply, and the answer is by the register at the offset. -/
theorem readsReturnTheRegisters : Obligations.ReadsReturnTheRegisters := by
  intro s off rest h8 hw hp
  rw [step_readAt hp h8 hw]
  simp only [regAt, apply_ite fun slot => portRead slot s.regs]
  rfl

/-! ### Writes of operands (R154, R155) -/

/-- Settles O40: while BUSY = 1 the three writes are dropped alike; while it is 0 each stores its register. -/
theorem runOperandWrites : Obligations.RunOperandWrites := by
  intro s v off rest hp hoff
  cases hb : s.regs.status.busy with
  | true =>
    rw [step_writeAt hp (by omega) (by omega), writtenRegs_dropped hb (busyGuarded_regAt.mpr (.inr hoff))]
    rfl
  | false =>
    rcases hoff with rfl | rfl | rfl
    · rw [step_writeReg (reg := .xBase) hp, writtenRegs, unlessBusy_idle hb]; rfl
    · rw [step_writeReg (reg := .yBase) hp, writtenRegs, unlessBusy_idle hb]; rfl
    · rw [step_writeReg (reg := .k) hp, writtenRegs, unlessBusy_idle hb]; rfl

/-- The step of an engine turn, pending or by default, whatever its outcome. -/
theorem step_of_turnIsEngine {s : State} (turn : turnIsEngine s) :
    step s = engineTurn (turnWrites s) (turnTaken s (laterTurns s)) := by
  rw [turnWrites, laterTurns]
  rcases turn with hp | ⟨ws, hw⟩
  · rw [hp]; exact step_nil hp
  · obtain ⟨rest, hp⟩ := List.head?_eq_some_iff.mp hw
    rw [hp]; exact step_cons hp

/-- The state with `v` in OPA and `w` in OPB. -/
def withStepOperands (v w : Word) (s : State) : State := s.setRegs ((s.regs.setOpa v).setOpb w)

/-- An engine turn reads neither OPA nor OPB: with other values in them it takes the same branch, and carries them over. -/
theorem engineTurn_withStepOperands {ws : List MemWrite} {s t : State} (v w : Word) (h : engineTurn ws s = .next t) :
    engineTurn ws (withStepOperands v w s) = .next (withStepOperands v w t) := by
  cases hb : s.regs.status.busy with
  | false =>
    rw [engineTurn_idle hb] at h
    cases h
    exact engineTurn_idle hb
  | true =>
    have hx : addrX (withStepOperands v w s).regs = addrX s.regs := rfl
    have hy : addrY (withStepOperands v w s).regs = addrY s.regs := rfl
    have hi : (withStepOperands v w s).regs.idx = s.regs.idx := rfl
    have hp : (withStepOperands v w s).platform = s.platform := rfl
    rw [engineTurn_busy hb, enginePairStep_eq] at h
    rw [engineTurn_busy (s := withStepOperands v w s) hb, enginePairStep_eq, hx, hy, hi, hp]
    split_ifs at h ⊢ <;> cases h <;> rfl

/-- Settles O41: a write of OPA or OPB is no guarded write, and an engine turn keeps other values of both. -/
theorem stepOperandWrites : Obligations.StepOperandWrites := by
  refine ⟨fun s v rest => ⟨step_writeReg (reg := .opa), step_writeReg (reg := .opb)⟩, fun s t v w turn h => ?_⟩
  rw [step_of_turnIsEngine turn] at h
  calc step (withStepOperands v w s)
    _ = engineTurn (turnWrites s) (withStepOperands v w (turnTaken s (laterTurns s))) :=
      step_of_turnIsEngine (s := withStepOperands v w s) turn
    _ = .next (withStepOperands v w t) := engineTurn_withStepOperands v w h

/-! ### Read-only and reserved offsets (R156, R157) -/

theorem writtenRegs_ignored {off : Nat} (h : off = 0x08 ∨ off = 0x28 ∨ 0x40 ≤ off) (v : Word) (r : Regs) :
    writtenRegs (regAt off) v r = r := by
  cases hr : regAt off with
  | none => rfl
  | some reg =>
    have hoff := regAt_eq_some.mp hr
    cases reg with
    | status | acc | niter | idx | faultInfo => rfl
    | cmd | xBase | yBase | k | opa | opb => simp [hoff, RegName.offset] at h

/-- Settles O42: the writes leave the registers as they are, and a reserved offset names no register to read. -/
theorem readOnlyAndReservedOffsets : Obligations.ReadOnlyAndReservedOffsets := by
  refine fun s v off rest h8 hw => ⟨fun hoff hp => ?_, fun hoff hp => ?_⟩
  · rw [step_writeAt hp h8 hw, writtenRegs_ignored hoff]
    rfl
  · rw [step_readAt hp h8 hw, regAt_eq_none hoff]
    rfl

end Sys2Proof.Proofs
end

section
/-! PROOFS. The errors of RUN's acceptance (60_exceptions.md R203, R204): what the step of a rejected RUN leaves. -/

namespace Sys2Proof.Proofs
open Sys2Proof.Machine

/-! ### The rejected ways of an accepted RUN (R125) -/

/-- Only the first of the five ways of RUN has a negative K. -/
theorem runRegs_negK {r : Regs} (hk : sint64 r.k < 0) : runRegs r = raiseError .negK r.k (runPrepared 0 r) := by
  rcases runRegs_cases r with ⟨-, he⟩ | ⟨hk0, -⟩ | ⟨hk0, -⟩ | ⟨hk0, -⟩ | ⟨hk0, -⟩
  · exact he
  all_goals exact absurd hk hk0.not_gt

/-- The base a misaligned RUN records: X_BASE is checked before Y_BASE (R204). -/
def firstMisaligned (r : Regs) : Word := if r.xBase.toNat % 8 ≠ 0 then r.xBase else r.yBase

/-- The two ways of RUN with words to read and a misaligned base, as one. -/
theorem runRegs_misaligned {r : Regs} (hk : 0 < sint64 r.k) (hbase : r.xBase.toNat % 8 ≠ 0 ∨ r.yBase.toNat % 8 ≠ 0) :
    runRegs r = raiseError .misaligned (firstMisaligned r) (runPrepared (niterOf (sint64 r.k).toNat) r) := by
  rcases runRegs_cases r with ⟨hneg, -⟩ | ⟨-, h0, -⟩ | ⟨-, -, hx, he⟩ | ⟨-, -, hx, -, he⟩ | ⟨-, -, hx, hy, -⟩
  · exact absurd hneg hk.not_gt
  · rw [niterOf_eq_zero] at h0
    omega
  · rw [he, firstMisaligned, if_pos (aligned8_eq_false_iff.mp hx)]
  · rw [he, firstMisaligned, if_neg (not_not.mpr (aligned8_iff.mp hx))]
  · rw [aligned8_iff] at hx hy
    omega

/-! ### The step of an accepted RUN -/

/-- A CMD write of RUN's word to an idle block is RUN's acceptance phase, on ports that show nothing. -/
theorem step_runWrite {s : State} {rest : List Event} (hp : s.pending = cmdWrite s.platform (encode .run) :: rest)
    (hb : s.regs.status.busy = false) : step s = .next ((turnTaken s rest).setRegs (runRegs s.regs)) := by
  rw [step_cmdWrite_command hp (decode_encode .run)]
  exact exec_idle (s := turnTaken s rest) hb .run

/-- Settles O27: the step ends in RUN's first way, which records K. -/
theorem negativeKIsRejected : Obligations.NegativeKIsRejected := by
  refine ⟨rfl, fun s rest hb hk hp => ⟨_, step_runWrite hp hb, ?_⟩⟩
  rw [runRegs_negK hk, raiseError_eq]
  exact ⟨rfl, rfl, rfl, rfl, rfl, rfl, rfl⟩

/-- Settles O28: the step ends in RUN's third or fourth way, which record the first misaligned base. -/
theorem misalignedBaseIsRejected : Obligations.MisalignedBaseIsRejected := by
  refine ⟨rfl, fun s rest hb hk hp hbase => ⟨_, step_runWrite hp hb, ?_⟩⟩
  rw [runRegs_misaligned hk hbase, raiseError_eq]
  exact ⟨rfl, rfl, rfl, rfl⟩

end Sys2Proof.Proofs
end

section
/-! PROOFS. Reset (70_reset_and_hazards.md R250): what the step of a reset turn leaves, and the registers at power-up. -/

namespace Sys2Proof.Proofs
open Sys2Proof.Machine

/-- The values of R250's table, register by register. -/
theorem regsReset_eq : Regs.reset =
    { status := { busy := false, done := false, err := false, ovr := false, cause := .none },
      xBase := 0, yBase := 0, k := 0, acc := 0, opa := 0, opb := 0, niter := 0, idx := 0, faultInfo := 0 } := rfl

/-- Power-up and a reset turn give the same registers (R250). -/
theorem powerUp_regs : State.reset.regs = Regs.reset := rfl

/-- A reset turn is always enabled, and replaces the registers alone: a run in progress is abandoned (R252). -/
theorem step_reset {s : State} {rest : List Event} (hp : s.pending = .reset :: rest) :
    step s = .next ((turnTaken s rest).setRegs Regs.reset) := by
  rw [step_cons hp]
  rfl

/-- Settles O49: the reset step and the state after power-up both hold the registers of R250's table. -/
theorem resetZeroesEveryRegister : Obligations.ResetZeroesEveryRegister := by
  refine ⟨fun s rest hp => ?_, ?_⟩
  · rw [step_reset hp, regsReset_eq]
    rfl
  · rw [powerUp_regs, regsReset_eq]

end Sys2Proof.Proofs
end

section
/-! PROOFS. The invariant of the machine (10_state.md R24, R27, R34, R36, R38): it holds at reset, every step keeps it,
and under it no step faults and no sum of a run wraps. -/

namespace Sys2Proof.Proofs
open Sys2Proof.Machine

/-! ### The registers: what leaves the invariant as it is, and what establishes it -/

section
variable {r r' : Regs}

/-- The invariant reads STATUS but for OVR, NITER, IDX and FAULT_INFO, and the rest only while BUSY = 1. -/
theorem regsInv_congr (h : RegsInv r) (hst : r'.status = r.status.setOvr r'.status.ovr)
    (hn : r'.niter = r.niter) (hi : r'.idx = r.idx) (hf : r'.faultInfo = r.faultInfo)
    (hrun : r.status.busy = true →
      r'.xBase = r.xBase ∧ r'.yBase = r.yBase ∧ r'.k = r.k ∧ r'.acc = r.acc) : RegsInv r' := by
  have hb : r'.status.busy = r.status.busy := by rw [hst]; rfl
  have hd : r'.status.done = r.status.done := by rw [hst]; rfl
  have he : r'.status.err = r.status.err := by rw [hst]; rfl
  have hc : r'.status.cause = r.status.cause := by rw [hst]; rfl
  refine ⟨hn ▸ h.niter_le, hn ▸ hi ▸ h.idx_le, hd ▸ he ▸ h.done_err, hc ▸ he ▸ h.cause_iff, he ▸ hf ▸ h.info_zero, ?_⟩
  intro busy
  rw [hb] at busy
  obtain ⟨hx, hy, hk, ha⟩ := hrun busy
  have run := h.run busy
  exact ⟨hn ▸ hi ▸ run.idx_lt, hd ▸ run.not_done, he ▸ run.not_err, hx ▸ run.x_aligned, hy ▸ run.y_aligned,
    ha ▸ hi ▸ run.acc_le, hk ▸ run.k_nonneg, hn ▸ hk ▸ run.niter_eq⟩

/-- Recording an error establishes the invariant wherever the bookkeeping of NITER and IDX holds. -/
theorem raiseError_inv (c : Cause) (hc : c ≠ .none) (info : Word) (hn : r.niter.toNat ≤ 2 ^ 57)
    (hi : r.idx.toNat ≤ r.niter.toNat) : RegsInv (raiseError c info r) where
  niter_le := hn
  idx_le := hi
  done_err := by simp [raiseError_eq]
  cause_iff := by simpa [raiseError_eq] using hc
  info_zero := nofun
  run := nofun

/-- An idle block with no error recorded meets the invariant wherever the bookkeeping of NITER and IDX holds. -/
theorem idle_noError_inv (hb : r.status.busy = false) (he : r.status.err = false) (hc : r.status.cause = .none)
    (hf : r.faultInfo = 0) (hn : r.niter.toNat ≤ 2 ^ 57) (hi : r.idx.toNat ≤ r.niter.toNat) : RegsInv r where
  niter_le := hn
  idx_le := hi
  done_err := by simp [he]
  cause_iff := by simp [hc, he]
  info_zero := fun _ => hf
  run := by simp [hb]

theorem regsReset_inv : RegsInv Regs.reset :=
  idle_noError_inv rfl rfl rfl rfl (by decide) (by decide)

/-! ### The commands -/

theorem niterOf_sint64_le {v : Word} (h : 0 ≤ sint64 v) : niterOf (sint64 v).toNat ≤ 2 ^ 57 :=
  niterOf_le (sint64_toNat_lt h)

theorem ofNat_niterOf_toNat {v : Word} (h : 0 ≤ sint64 v) :
    (BitVec.ofNat 64 (niterOf (sint64 v).toNat)).toNat = niterOf (sint64 v).toNat := by
  have := niterOf_sint64_le h
  rw [BitVec.toNat_ofNat, Nat.mod_eq_of_lt (by omega)]

/-- An accepted RUN establishes the invariant, whatever the registers held before. -/
theorem runRegs_inv (hb : r.status.busy = false) : RegsInv (runRegs r) := by
  have misaligned (base : Word) (hk : 0 ≤ sint64 r.k) :
      RegsInv (raiseError .misaligned base (runPrepared (niterOf (sint64 r.k).toNat) r)) :=
    raiseError_inv .misaligned nofun base ((ofNat_niterOf_toNat hk).trans_le (niterOf_sint64_le hk)) (Nat.zero_le _)
  rcases runRegs_cases r with ⟨-, he⟩ | ⟨-, -, he⟩ | ⟨hk, -, -, he⟩ | ⟨hk, -, -, -, he⟩ | ⟨hk, hn, hx, hy, he⟩ <;> rw [he]
  · exact raiseError_inv .negK nofun r.k (Nat.zero_le _) (Nat.zero_le _)
  · rw [markDone_runPrepared_idle hb]
    exact idle_noError_inv rfl rfl rfl rfl (Nat.zero_le _) (Nat.zero_le _)
  · exact misaligned r.xBase hk
  · exact misaligned r.yBase hk
  · exact {
      niter_le := (ofNat_niterOf_toNat hk).trans_le (niterOf_sint64_le hk)
      idx_le := Nat.zero_le _
      done_err := by simp
      cause_iff := by simp
      info_zero := fun _ => rfl
      run := fun _ => {
        idx_lt := Nat.lt_of_lt_of_eq (Nat.pos_of_ne_zero hn) (ofNat_niterOf_toNat hk).symm
        not_done := rfl
        not_err := rfl
        x_aligned := hx
        y_aligned := hy
        acc_le := Nat.zero_le _
        k_nonneg := hk
        niter_eq := ofNat_niterOf_toNat hk } }

theorem acceptedRegs_inv (h : RegsInv r) (hb : r.status.busy = false) (i : Instr) : RegsInv (acceptedRegs i r) := by
  cases i with
  | nop => exact h
  | clear => exact idle_noError_inv hb rfl rfl rfl (Nat.zero_le _) (Nat.zero_le _)
  | step => exact idle_noError_inv hb rfl rfl rfl h.niter_le h.idx_le
  | run => exact runRegs_inv hb

theorem commandEffect_inv (h : RegsInv r) (hb : r.status.busy = false) (c : Word) : RegsInv (commandEffect c r) := by
  rcases commandEffect_cases c r with ⟨i, -, he⟩ | ⟨-, c', he⟩ <;> rw [he]
  · exact acceptedRegs_inv h hb i
  · exact raiseError_inv .illegalCmd nofun c' h.niter_le h.idx_le

/-! ### The turns -/

theorem dropWrite_inv (h : RegsInv r) : RegsInv (dropWrite r) :=
  regsInv_congr h rfl rfl rfl rfl fun _ => ⟨rfl, rfl, rfl, rfl⟩

theorem unlessBusy_inv {act : Regs → Regs} (h : RegsInv r) (hact : r.status.busy = false → RegsInv (act r)) :
    RegsInv (unlessBusy act r) := by
  cases hb : r.status.busy with
  | true => rw [unlessBusy_busy hb]; exact dropWrite_inv h
  | false => rw [unlessBusy_idle hb]; exact hact hb

theorem writtenRegs_inv (h : RegsInv r) (slot : Option RegName) (v : Word) : RegsInv (writtenRegs slot v r) := by
  unfold writtenRegs
  split
  · exact unlessBusy_inv h fun hb => commandEffect_inv h hb v
  · exact unlessBusy_inv h fun hb => regsInv_congr h rfl rfl rfl rfl (by simp [hb])
  · exact unlessBusy_inv h fun hb => regsInv_congr h rfl rfl rfl rfl (by simp [hb])
  · exact unlessBusy_inv h fun hb => regsInv_congr h rfl rfl rfl rfl (by simp [hb])
  · exact regsInv_congr h rfl rfl rfl rfl fun _ => ⟨rfl, rfl, rfl, rfl⟩
  · exact regsInv_congr h rfl rfl rfl rfl fun _ => ⟨rfl, rfl, rfl, rfl⟩
  all_goals exact h

/-- In a run IDX can be advanced without a wrap (R38). -/
theorem ofNat_idx_succ_toNat (h : RegsInv r) (hb : r.status.busy = true) :
    (BitVec.ofNat 64 (r.idx.toNat + 1)).toNat = r.idx.toNat + 1 := by
  have hlt := (h.run hb).idx_lt
  have hle := h.niter_le
  rw [BitVec.toNat_ofNat, Nat.mod_eq_of_lt (by omega)]

/-- Counting one more word pair in a run never wraps: ACC is at most 64 for each pair done (R38, R108). -/
theorem accumulate_in_run (h : RegsInv r) (hb : r.status.busy = true) (vx vy : Word) :
    (accumulate r.acc vx vy).toNat = r.acc.toNat + pxa vx vy ∧
      r.acc.toNat + pxa vx vy ≤ 64 * (r.idx.toNat + 1) ∧ r.acc.toNat + pxa vx vy ≤ 2 ^ 63 := by
  have hlt := (h.run hb).idx_lt
  have hacc := (h.run hb).acc_le
  have hle := h.niter_le
  have hpxa := pxa_le vx vy
  exact ⟨accumulate_toNat_of_lt (by omega), by omega, by omega⟩

theorem enginePair_inv (h : RegsInv r) (hb : r.status.busy = true) (vx vy : Word) : RegsInv (enginePair vx vy r) := by
  have run := h.run hb
  have idx_succ := ofNat_idx_succ_toNat h hb
  have cause_none : r.status.cause = .none := h.cause_iff.mpr run.not_err
  have idx_le : (BitVec.ofNat 64 (r.idx.toNat + 1)).toNat ≤ r.niter.toNat := idx_succ.trans_le run.idx_lt
  rw [enginePair_eq]
  by_cases last : r.idx.toNat + 1 = r.niter.toNat
  · rw [if_pos last]
    exact idle_noError_inv rfl run.not_err cause_none (h.info_zero run.not_err) h.niter_le idx_le
  · rw [if_neg last]
    obtain ⟨acc_eq, acc_le, -⟩ := accumulate_in_run h hb vx vy
    have idx_lt : (BitVec.ofNat 64 (r.idx.toNat + 1)).toNat < r.niter.toNat := by omega
    have acc_le : (accumulate r.acc vx vy).toNat ≤ 64 * (BitVec.ofNat 64 (r.idx.toNat + 1)).toNat := by omega
    exact ⟨h.niter_le, idx_le, h.done_err, h.cause_iff, h.info_zero, fun _ =>
      ⟨idx_lt, run.not_done, run.not_err, run.x_aligned, run.y_aligned, acc_le, run.k_nonneg, run.niter_eq⟩⟩

theorem engineEffect_inv {p : Platform} {m m' : Memory} {as : List Word} (h : RegsInv r)
    (he : EngineEffect p m m' r as r') : RegsInv r' := by
  cases he with
  | idle => exact h
  | pair hb => exact enginePair_inv h hb _ _
  | busErrorX => exact raiseError_inv .busError nofun _ h.niter_le h.idx_le
  | busErrorY => exact raiseError_inv .busError nofun _ h.niter_le h.idx_le

end

/-! ### The steps -/

section
variable {s t : State}

theorem step_regsInv (h : step s = .next t) (hs : RegsInv s.regs) : RegsInv t.regs := by
  cases step_effect h with
  | engine _ m' he => exact engineEffect_inv hs he
  | read _ _ _ ht => exact ht ▸ hs
  | write off v _ ht => exact ht ▸ writtenRegs_inv hs (regAt off) v
  | memory _ _ ht => exact ht ▸ hs
  | reset _ ht => exact ht ▸ regsReset_inv

end

/-- Settles O51: each turn keeps the invariant of the registers, and every write that lands the form of the memory. -/
theorem everyStepKeepsTheInvariant : Obligations.EveryStepKeepsTheInvariant := by
  intro s t hs h
  obtain ⟨hm, -⟩ := step_mem_reads h
  exact ⟨step_regsInv h hs.regs, hm ▸ landWrites_wf hs.mem _⟩

/-- Settles O50: the registers of reset meet the invariant, and no cell of memory is listed. -/
theorem invariantHoldsAtReset : Obligations.InvariantHoldsAtReset := ⟨regsReset_inv, rfl⟩

/-- Settles O54: the bound on ACC in a run, used on one more word pair. -/
theorem runNeverWraps : Obligations.RunNeverWraps := by
  intro s vx vy hs hb
  obtain ⟨exact_sum, -, bounded⟩ := accumulate_in_run hs.regs hb vx vy
  exact ⟨exact_sum, bounded⟩

section
variable {s t : State}

/-- In a run the engine's turn has aligned addresses to read. -/
theorem engineTurn_not_fault (hs : RegsInv s.regs) (ws : List MemWrite) (f : Fault) : engineTurn ws s ≠ .fault f := by
  intro h
  obtain ⟨hb, hmis⟩ := engineTurn_fault h
  have run := hs.run hb
  rcases hmis with hx | hy
  · rw [addrX, wordAddr_aligned run.x_aligned] at hx; cases hx
  · rw [addrY, wordAddr_aligned run.y_aligned] at hy; cases hy

theorem step_not_fault (hs : RegsInv s.regs) (f : Fault) : step s ≠ .fault f := by
  cases hp : s.pending with
  | nil => rw [step_nil hp]; exact engineTurn_not_fault (s := turnTaken s []) hs [] f
  | cons e rest =>
    rw [step_cons hp]
    cases e with
    | host a => exact hostAccess_not_fault a _ f
    | engine ws => exact engineTurn_not_fault (s := turnTaken s rest) hs ws f
    | memory w => nofun
    | reset => nofun

end

/-- Settles O52: of all turns only the engine's can fault, and in a run its addresses are aligned. -/
theorem noStepFaultsUnderTheInvariant : Obligations.NoStepFaultsUnderTheInvariant := by
  intro s hs
  cases h : step s with
  | next t => rfl
  | fault f => exact absurd h (step_not_fault hs.regs f)
  | refused q => rfl

/-! ### What no step changes (00_scope.md R5) -/

section
variable {s t : State}

theorem hostAccess_platform_pending {a : HostAccess} (h : hostAccess a s = .next t) :
    t.platform = s.platform ∧ t.pending = s.pending := by
  rcases hostAccess_cases h with ⟨_, _, _, -, -, rfl⟩ | ⟨_, _, _, _, _, -, -, -, rfl⟩
  · exact ⟨rfl, rfl⟩
  · exact ⟨rfl, rfl⟩

theorem engineTurn_platform_pending {ws : List MemWrite} (h : engineTurn ws s = .next t) :
    t.platform = s.platform ∧ t.pending = s.pending := by
  obtain ⟨as, r, -, -, rfl⟩ := engineTurn_cases h
  exact ⟨rfl, rfl⟩

end

/-- Settles O53: the turn is taken off the list before it is carried out, and no turn touches the list or the platform. -/
theorem platformIsFixed : Obligations.PlatformIsFixed := by
  intro s t h
  rcases step_cases h with ⟨hp, he⟩ | ⟨e, rest, hp, he⟩
  · rw [laterTurns, hp]
    exact engineTurn_platform_pending he
  rw [laterTurns, hp]
  rcases he with ⟨a, -, he⟩ | ⟨ws, -, he⟩ | ⟨w, -, rfl⟩ | ⟨-, rfl⟩
  · exact hostAccess_platform_pending he
  · exact engineTurn_platform_pending he
  · exact ⟨rfl, rfl⟩
  · exact ⟨rfl, rfl⟩

end Sys2Proof.Proofs
end

section
/-! PROOFS. The datapath (40_datapath.md R102 to R107, 00_scope.md R7): PXA as the Hamming distance of two words, and HD
as the sum of it over a buffer's words. -/

namespace Sys2Proof.Proofs
open Sys2Proof.Machine

/-! ### Sums over blocks of positions -/

theorem sum_range_blocks (f : Nat → Nat) (w n : Nat) :
    ∑ b ∈ Finset.range (w * n), f b = ∑ i ∈ Finset.range n, ∑ j ∈ Finset.range w, f (w * i + j) := by
  induction n with
  | zero => rfl
  | succ n ih => rw [Nat.mul_succ, Finset.sum_range_add, ih, Finset.sum_range_succ]

/-! ### PXA (R102) -/

/-- The bits of a word, by position. -/
def wordBits (a : Word) : Fin 64 → Bool := fun j => a.getLsbD j

theorem pxa_eq_hammingDist (a b : Word) : pxa a b = hammingDist (wordBits a) (wordBits b) := pxa_eq_card a b

theorem pxa_self (a : Word) : pxa a a = 0 := by
  rw [pxa_eq_hammingDist, hammingDist_self]

theorem pxa_comm (a b : Word) : pxa a b = pxa b a := by
  rw [pxa_eq_hammingDist, hammingDist_comm, ← pxa_eq_hammingDist]

theorem pxa_triangle (a b c : Word) : pxa a c ≤ pxa a b + pxa b c := by
  simp only [pxa_eq_hammingDist]
  exact hammingDist_triangle _ _ _

/-- Complements differ in every bit. -/
theorem pxa_not (a : Word) : pxa a (~~~a) = 64 := by
  have all_differ : ∀ j : Fin 64, a.getLsbD j ≠ (~~~a).getLsbD j := by
    intro j
    rw [BitVec.getLsbD_not, decide_eq_true j.isLt]
    cases a.getLsbD j <;> decide
  rw [pxa_eq_card, Finset.filter_true_of_mem fun j _ => all_differ j, Finset.card_fin]

/-- Settles O6: the count, its bound, and the rule's corner cases. -/
theorem pxaCountsTheDifferingBits : Obligations.PxaCountsTheDifferingBits :=
  ⟨fun a b => ⟨pxa_eq_card a b, pxa_le a b, pxa_self a, pxa_not a⟩, rfl⟩

theorem pxa_eq_sum_bits (a b : Word) :
    pxa a b = ∑ j ∈ Finset.range 64, if a.getLsbD j ≠ b.getLsbD j then 1 else 0 := by
  rw [pxa_eq_card, Finset.card_filter, Finset.sum_range fun j => if a.getLsbD j ≠ b.getLsbD j then 1 else 0]

/-! ### PXA byte by byte (20_memory.md section 1) -/

/-- The number of bits in which two bytes differ. -/
def byteDistance (x y : Byte) : Nat := ∑ i ∈ Finset.range 8, if x.getLsbD i ≠ y.getLsbD i then 1 else 0

theorem getLsbD_byte (v : Word) {j i : Nat} (hi : i < 8) :
    v.getLsbD (8 * j + i) = (v.extractLsb' (8 * j) 8).getLsbD i := by
  rw [BitVec.getLsbD_extractLsb', decide_eq_true hi, Bool.true_and]

theorem pxa_eq_sum_bytes (a b : Word) :
    pxa a b = ∑ j : Fin 8, byteDistance (a.extractLsb' (8 * j) 8) (b.extractLsb' (8 * j) 8) := by
  rw [pxa_eq_sum_bits, sum_range_blocks _ 8 8, Finset.sum_range]
  refine Finset.sum_congr rfl fun j _ => Finset.sum_congr rfl fun i hi => ?_
  rw [getLsbD_byte a (Finset.mem_range.mp hi), getLsbD_byte b (Finset.mem_range.mp hi)]

/-- Settles O13: the permutation reorders the sum over the bytes. -/
theorem countIgnoresByteOrder : Obligations.CountIgnoresByteOrder := by
  intro σ a b a' b' ha hb
  calc pxa a' b'
    _ = ∑ j : Fin 8, byteDistance (a.extractLsb' (8 * σ j) 8) (b.extractLsb' (8 * σ j) 8) := by
      simp only [pxa_eq_sum_bytes, ha, hb]
    _ = ∑ j : Fin 8, byteDistance (a.extractLsb' (8 * j) 8) (b.extractLsb' (8 * j) 8) :=
      Equiv.sum_comp σ fun j : Fin 8 => byteDistance (a.extractLsb' (8 * j) 8) (b.extractLsb' (8 * j) 8)
    _ = pxa a b := (pxa_eq_sum_bytes a b).symm

/-! ### ACCUMULATE (R103) -/

theorem accumulate_self (acc a : Word) : accumulate acc a a = acc := by
  rw [accumulate, pxa_self, Nat.add_zero, BitVec.ofNat_toNat, BitVec.setWidth_eq]

/-- Settles O7: the sum modulo 2^64, with nothing added for equal words, and the rule's three sums evaluate. -/
theorem accumulateAddsModulo2To64 : Obligations.AccumulateAddsModulo2To64 :=
  ⟨fun acc a b => ⟨accumulate_toNat acc a b, accumulate_self acc a⟩, rfl, rfl, rfl⟩

/-! ### NITER (R104) -/

/-- The bit-field form of the ceiling, for a number of at most 63 bits. -/
theorem niterOf_eq_fields {k : Nat} (hk : k < 2 ^ 63) :
    niterOf k = ((BitVec.ofNat 64 k).extractLsb' 6 57).toNat +
      (if (BitVec.ofNat 64 k).extractLsb' 0 6 ≠ 0 then 1 else 0) := by
  have quotient : ((BitVec.ofNat 64 k).extractLsb' 6 57).toNat = k / 64 := by
    rw [BitVec.extractLsb'_toNat, BitVec.toNat_ofNat, Nat.shiftRight_eq_div_pow]
    omega
  have remainder : (BitVec.ofNat 64 k).extractLsb' 0 6 = 0 ↔ k % 64 = 0 := by
    rw [← BitVec.toNat_inj, BitVec.extractLsb'_toNat, BitVec.toNat_ofNat, Nat.shiftRight_zero]
    change k % 2 ^ 64 % 2 ^ 6 = 0 ↔ k % 64 = 0
    omega
  simp only [niterOf, quotient, ne_eq, remainder]

/-- Settles O8: `(k + 63) / 64` is the least such number, and the bit-field form the same. -/
theorem niterIsTheCeilingOfKOver64 : Obligations.NiterIsTheCeilingOfKOver64 := by
  refine ⟨fun k hk => ⟨?_, fun n hn => ?_, niterOf_le hk, niterOf_eq_fields hk⟩, by decide⟩
  · rw [niterOf_eq_div]; omega
  · rw [niterOf_eq_div]; omega

/-! ### sint64 (00_scope.md R7) -/

theorem sint64_eq_toInt (v : Word) : sint64 v = v.toInt := by
  rw [BitVec.toInt_eq_msb_cond, BitVec.msb_eq_getLsbD_last]
  rfl

theorem toNat_congr_sint64 (v : Word) : ∃ z : Int, (v.toNat : Int) = sint64 v + 2 ^ 64 * z := by
  unfold sint64
  cases v.getLsbD 63 with
  | true => exact ⟨1, by simp⟩
  | false => exact ⟨0, by simp⟩

/-- Settles O9: `sint64` is the library's two's complement reading, in its range and congruent to the word. -/
theorem sint64IsTwosComplement : Obligations.Sint64IsTwosComplement := fun v =>
  ⟨sint64_eq_toInt v ▸ BitVec.le_toInt v, sint64_eq_toInt v ▸ BitVec.toInt_lt, toNat_congr_sint64 v⟩

/-! ### HD (R105 to R107) -/

theorem hd_eq_sum (x y : Nat → Word) (k : Nat) : hd x y k = ∑ i ∈ Finset.range (niterOf k), pxa (x i) (y i) := rfl

/-- Settles O10: each law holds word by word. -/
theorem hammingDistanceIsSymmetricAndObeysTheTriangleInequality :
    Obligations.HammingDistanceIsSymmetricAndObeysTheTriangleInequality := by
  intro x y z k
  simp only [hd_eq_sum]
  refine ⟨rfl, Finset.sum_eq_zero fun i _ => pxa_self (x i), Finset.sum_congr rfl fun i _ => pxa_comm (x i) (y i), ?_⟩
  rw [← Finset.sum_add_distrib]
  exact Finset.sum_le_sum fun i _ => pxa_triangle (x i) (y i) (z i)

/-- Bit `b` of a buffer, counted from bit 0 of word 0 (20_memory.md R53). -/
def bufferBit (x : Nat → Word) (b : Nat) : Bool := (x (b / 64)).getLsbD (b % 64)

theorem bufferBit_word (x : Nat → Word) {i j : Nat} (hj : j < 64) : bufferBit x (64 * i + j) = (x i).getLsbD j := by
  rw [bufferBit, Nat.mul_add_div (by decide), Nat.mul_add_mod, Nat.div_eq_of_lt hj, Nat.mod_eq_of_lt hj, Nat.add_zero]

/-- The bits in which two buffers of `n` words differ are those in which their words do. -/
theorem card_bufferBit_ne (x y : Nat → Word) (n : Nat) :
    ((Finset.range (64 * n)).filter fun b => bufferBit x b ≠ bufferBit y b).card =
      ∑ i ∈ Finset.range n, pxa (x i) (y i) := by
  rw [Finset.card_filter, sum_range_blocks]
  refine Finset.sum_congr rfl fun i _ => ?_
  rw [pxa_eq_sum_bits]
  refine Finset.sum_congr rfl fun j hj => ?_
  rw [bufferBit_word x (Finset.mem_range.mp hj), bufferBit_word y (Finset.mem_range.mp hj)]

/-- Settles O11: the bits counted word by word, and 64 of them in each word of complements. -/
theorem hammingDistanceIsABitByBitCount : Obligations.HammingDistanceIsABitByBitCount := by
  intro x y k
  refine ⟨(card_bufferBit_ne x y (niterOf k)).symm, ?_⟩
  simp only [hd_eq_sum, pxa_not, Finset.sum_const, Finset.card_range, smul_eq_mul, mul_comm]

/-- Settles O12: NITER of whole words is their number. -/
theorem hammingDistanceComparesWholeWords : Obligations.HammingDistanceComparesWholeWords := by
  intro x y k₁ k₂
  have whole : niterOf (64 * niterOf k₁) = niterOf k₁ := by rw [niterOf_eq_div (64 * _)]; omega
  simp only [hd_eq_sum, whole]
  exact ⟨fun h => by rw [h], trivial⟩

end Sys2Proof.Proofs
end

section
/-! PROOFS. A run under every schedule (41_commands.md section 3, 70_reset_and_hazards.md R257): its operands and its
buffers stay, and ACC is the sum over the word pairs done, until the run ends with HD or by a bus error. -/

namespace Sys2Proof.Proofs
open Sys2Proof.Machine

/-! ### The registers of a run -/

/-- The registers that say what a run computes: both bases, K and the word count. -/
def runOperands (r : Regs) : Word × Word × Word × Word := (r.xBase, r.yBase, r.k, r.niter)

theorem runOperands_inj {r r' : Regs} :
    runOperands r' = runOperands r ↔ r'.xBase = r.xBase ∧ r'.yBase = r.yBase ∧ r'.k = r.k ∧ r'.niter = r.niter := by
  simp [runOperands]

theorem engineEffect_operands {p : Platform} {m m' : Memory} {r r' : Regs} {as : List Word}
    (h : EngineEffect p m m' r as r') : runOperands r' = runOperands r := by
  cases h with
  | idle => rfl
  | pair => rw [enginePair_eq]; rfl
  | busErrorX => rfl
  | busErrorY => rfl

/-- A host write during a run is dropped, stores an operand of STEP, or is ignored. -/
theorem writtenRegs_busy {r : Regs} (hb : r.status.busy = true) (slot : Option RegName) (v : Word) :
    writtenRegs slot v r = dropWrite r ∨ writtenRegs slot v r = r.setOpa v ∨ writtenRegs slot v r = r.setOpb v ∨
      writtenRegs slot v r = r := by
  cases hg : busyGuarded slot with
  | true => exact .inl (writtenRegs_dropped hb hg v)
  | false =>
    match slot, hg with
    | some .opa, _ => exact .inr (.inl rfl)
    | some .opb, _ => exact .inr (.inr (.inl rfl))
    | some .status, _ | some .acc, _ | some .niter, _ | some .idx, _ | some .faultInfo, _ | none, _ =>
      exact .inr (.inr (.inr rfl))

section
variable {s t : State}

/-- Within a run every turn but the engine's and reset leaves the run as it stands. -/
theorem run_step_cases (h : step s = .next t) (hb : s.regs.status.busy = true) (noReset : ¬ turnIs s .reset) :
    turnIsEngine s ∨
    (t.regs.status.busy = true ∧ t.regs.acc = s.regs.acc ∧ t.regs.idx = s.regs.idx ∧
      runOperands t.regs = runOperands s.regs) := by
  cases step_effect h with
  | engine turn => exact .inl turn
  | read _ _ _ ht => rw [ht]; exact .inr ⟨hb, rfl, rfl, rfl⟩
  | memory _ _ ht => rw [ht]; exact .inr ⟨hb, rfl, rfl, rfl⟩
  | reset turn => exact absurd turn noReset
  | write off v _ ht =>
    right
    rw [ht]
    rcases writtenRegs_busy hb (regAt off) v with he | he | he | he <;> rw [he] <;> exact ⟨hb, rfl, rfl, rfl⟩

theorem step_engine_effect_mem (turn : turnIsEngine s) (h : step s = .next t) :
    EngineEffect s.platform s.mem t.mem s.regs t.reads t.regs := by
  obtain ⟨hm, -⟩ := step_mem_reads h
  rw [hm]
  exact step_engine_effect turn h

theorem run_keeps_operands (h : step s = .next t) (hb : s.regs.status.busy = true) (noReset : ¬ turnIs s .reset) :
    runOperands t.regs = runOperands s.regs := by
  rcases run_step_cases h hb noReset with turn | ⟨-, -, -, ho⟩
  · exact engineEffect_operands (step_engine_effect turn h)
  · exact ho

/-! ### The buffers of a run (R257) -/

theorem memWord_congr {m m' : Memory} {a : Word}
    (h : ∀ j < 8, memGet m' (a + BitVec.ofNat 64 j).toNat = memGet m (a + BitVec.ofNat 64 j).toNat) :
    memWord m' a = memWord m a := by
  rw [memWord, memWord, List.map_congr_left fun j hj => h j (List.mem_range.mp hj)]

/-- A step in which no agent writes a buffer word leaves every byte of the buffers. -/
theorem spared_byte (h : step s = .next t) (spares : sparesBuffers s) {a : Word} (ha : inBuffers s.regs a) :
    memGet t.mem a.toNat = memGet s.mem a.toNat := by
  obtain ⟨-, -, kept⟩ := blockOnlyReadsMemory s t h
  refine kept a fun w hw => ?_
  rw [← Bool.not_eq_true]
  exact fun covered => spares w hw a covered ha

theorem spared_words (h : step s = .next t) (spares : sparesBuffers s) {i : Nat} (hi : i < s.regs.niter.toNat) :
    memWord t.mem (addrX s.regs i) = wordX s i ∧ memWord t.mem (addrY s.regs i) = wordY s i :=
  ⟨memWord_congr fun j hj => spared_byte h spares ⟨i, hi, j, hj, .inl rfl⟩,
   memWord_congr fun j hj => spared_byte h spares ⟨i, hi, j, hj, .inr rfl⟩⟩

theorem run_keeps_words (h : step s = .next t) (spares : sparesBuffers s)
    (ho : runOperands t.regs = runOperands s.regs) {i : Nat} (hi : i < s.regs.niter.toNat) :
    wordX t i = wordX s i ∧ wordY t i = wordY s i := by
  obtain ⟨hx, hy, -, -⟩ := runOperands_inj.mp ho
  rw [wordX, wordY, addrX, addrY, hx, hy]
  exact spared_words h spares hi

/-! ### The partial sum (R127) -/

theorem partialSum_eq_sum (s : State) :
    partialSum s = ∑ i ∈ Finset.range s.regs.idx.toNat, pxa (wordX s i) (wordY s i) := rfl

/-- The sum over the first `n` word pairs survives a step that spares the buffers. -/
theorem run_keeps_sum (h : step s = .next t) (spares : sparesBuffers s)
    (ho : runOperands t.regs = runOperands s.regs) {n : Nat} (hn : n ≤ s.regs.niter.toNat) :
    ∑ i ∈ Finset.range n, pxa (wordX t i) (wordY t i) = ∑ i ∈ Finset.range n, pxa (wordX s i) (wordY s i) := by
  refine Finset.sum_congr rfl fun i hi => ?_
  obtain ⟨hx, hy⟩ := run_keeps_words h spares ho ((Finset.mem_range.mp hi).trans_le hn)
  rw [hx, hy]

/-- An engine step of a run either counts one more word pair, ending the run on the last one, or ends it by a bus
error. -/
theorem engine_step_in_run (hs : RegsInv s.regs) (hb : s.regs.status.busy = true)
    (sum : s.regs.acc.toNat = partialSum s) (spares : sparesBuffers s) (turn : turnIsEngine s) (h : step s = .next t) :
    (t.regs.idx.toNat = s.regs.idx.toNat + 1 ∧
      t.regs.acc.toNat = ∑ i ∈ Finset.range (s.regs.idx.toNat + 1), pxa (wordX s i) (wordY s i) ∧
      t.regs.status = if s.regs.idx.toNat + 1 = s.regs.niter.toNat then
        { s.regs.status with busy := false, done := true } else s.regs.status) ∨
    (t.regs.status.busy = false ∧ t.regs.status.err = true ∧ t.regs.status.cause = .busError ∧ t.regs.acc = 0 ∧
      t.regs.idx = s.regs.idx) := by
  have he := step_engine_effect_mem turn h
  generalize t.regs = r, t.reads = as at he ⊢
  cases he with
  | idle idle => rw [hb] at idle; cases idle
  | pair =>
    left
    obtain ⟨-, y_word⟩ := spared_words h spares (hs.run hb).idx_lt
    obtain ⟨acc_eq, -, -⟩ := accumulate_in_run hs hb (wordX s s.regs.idx.toNat) (wordY s s.regs.idx.toNat)
    rw [y_word, enginePair_eq, Finset.sum_range_succ, ← partialSum_eq_sum, ← sum]
    exact ⟨ofNat_idx_succ_toNat hs hb, acc_eq, rfl⟩
  | busErrorX => exact .inr ⟨rfl, rfl, rfl, rfl, rfl⟩
  | busErrorY => exact .inr ⟨rfl, rfl, rfl, rfl, rfl⟩

/-- Where a run stands after a step: still in progress with ACC the partial sum, done with ACC the sum over all its word
pairs, or ended by a bus error. -/
theorem run_step_outcome (hs : RegsInv s.regs) (hb : s.regs.status.busy = true)
    (sum : s.regs.acc.toNat = partialSum s) (spares : sparesBuffers s) (noReset : ¬ turnIs s .reset)
    (h : step s = .next t) :
    (t.regs.status.busy = true ∧ t.regs.acc.toNat = partialSum t) ∨
    (t.regs.status.busy = false ∧ t.regs.status.done = true ∧ t.regs.idx = t.regs.niter ∧
      t.regs.acc.toNat = hd (wordX s) (wordY s) (sint64 s.regs.k).toNat) ∨
    (t.regs.status.busy = false ∧ t.regs.status.err = true ∧ t.regs.status.cause = .busError ∧ t.regs.acc = 0 ∧
      t.regs.idx = s.regs.idx) := by
  have run := hs.run hb
  have ho := run_keeps_operands h hb noReset
  rcases run_step_cases h hb noReset with turn | ⟨busy, hacc, hidx, -⟩
  · rcases engine_step_in_run hs hb sum spares turn h with ⟨hidx, hacc, hst⟩ | bus_error
    · by_cases last : s.regs.idx.toNat + 1 = s.regs.niter.toNat
      · obtain ⟨-, -, -, hn⟩ := runOperands_inj.mp ho
        rw [if_pos last] at hst
        refine .inr (.inl ⟨by rw [hst], by rw [hst], BitVec.eq_of_toNat_eq (by rw [hidx, last, hn]), ?_⟩)
        rw [hacc, last, run.niter_eq, hd_eq_sum]
      · rw [if_neg last] at hst
        refine .inl ⟨hst ▸ hb, ?_⟩
        rw [hacc, partialSum_eq_sum, hidx, run_keeps_sum h spares ho run.idx_lt]
    · exact .inr (.inr bus_error)
  · refine .inl ⟨busy, ?_⟩
    rw [hacc, sum, partialSum_eq_sum t, hidx, run_keeps_sum h spares ho run.idx_lt.le, ← partialSum_eq_sum]

end

/-- Settles O55: what every step of a run keeps, and where it leaves the run. -/
theorem runKeepsThePartialSum : Obligations.RunKeepsThePartialSum := by
  intro s t hs hb sum spares noReset h
  have ho := run_keeps_operands h hb noReset
  obtain ⟨hx, hy, hk, hn⟩ := runOperands_inj.mp ho
  exact ⟨hx, hy, hk, hn, fun i hi => run_keeps_words h spares ho hi,
    run_step_outcome hs.regs hb sum spares noReset h⟩

end Sys2Proof.Proofs
end

section
/-! PROOFS. The commands once more (30_encoding.md R70 to R75, 41_commands.md R120 to R125): words as the opcode table
numbers them, what the commands leave unchanged, and how RUN goes when nothing is wrong. -/

namespace Sys2Proof.Proofs
open Sys2Proof.Machine

/-! ### Words of the opcode table (R73, R74) -/

/-- Settles O1: four words encode commands, and the others have a reserved bit set or an unknown OP. -/
theorem listedWordsDecodeAsListed : Obligations.ListedWordsDecodeAsListed :=
  ⟨decode_encode .nop, decode_encode .clear, decode_encode .step, decode_encode .run,
    decode_illegal (by decide), decode_illegal (by decide), decode_illegal (by decide), decode_illegal (by decide),
    decode_illegal (by decide), decode_illegal (by decide)⟩

theorem decodeTableWord_eq_some {nbits w : Nat} {i : Instr} :
    decodeTableWord nbits w = some i ↔
      w % 2 ^ nbits < 2 ^ 64 ∧ decode (BitVec.ofNat 64 (w % 2 ^ nbits)) = .command i := by
  rw [decodeTableWord]
  split_ifs with high
  · exact iff_of_false nofun fun ⟨fits, _⟩ => high.not_gt fits
  · rw [and_iff_right (not_le.mp high)]
    cases decode (BitVec.ofNat 64 (w % 2 ^ nbits)) <;> simp

/-- Settles O4: a number below 2^64 is the number of the word of `i` exactly when it decodes to `i`. -/
theorem tableWordsDecodeExactlyWhenEncoded : Obligations.TableWordsDecodeExactlyWhenEncoded := by
  intro nbits w i
  rw [decodeTableWord_eq_some, decode_eq_command, ← BitVec.toNat_inj, BitVec.toNat_ofNat]
  constructor
  · rintro ⟨fits, he⟩
    rwa [Nat.mod_eq_of_lt fits] at he
  · intro he
    have fits : w % 2 ^ nbits < 2 ^ 64 := he ▸ (encode i).isLt
    exact ⟨fits, by rw [Nat.mod_eq_of_lt fits, he]⟩

/-! ### The step of a command (R120) -/

/-- The turn `withFetchWord` places is a CMD write of the instruction's word. -/
theorem withFetchWord_pending (s : State) (i : Instr) :
    (s.withFetchWord 64 (encode i).toNat).pending = cmdWrite s.platform (encode i) :: s.pending := by
  rw [State.withFetchWord, offerCommand, State.setPending_pending, Nat.mod_eq_of_lt (encode i).isLt,
    BitVec.ofNat_toNat, BitVec.setWidth_eq]

/-- Settles O31: a CMD write is carried out by the step that takes it, a command placed from outside among them. -/
theorem stepRunsTheDecodedCommand : Obligations.StepRunsTheDecodedCommand :=
  ⟨fun _ _ _ _ hp hd _ => step_cmdWrite_command hp hd,
   fun s i _ => step_cmdWrite_command (withFetchWord_pending s i) (decode_encode i)⟩

/-! ### Frames -/

/-- No command's accepted effect touches an operand register (R28 to R33). -/
theorem acceptedRegs_operands (i : Instr) (r : Regs) :
    (acceptedRegs i r).xBase = r.xBase ∧ (acceptedRegs i r).yBase = r.yBase ∧ (acceptedRegs i r).k = r.k ∧
      (acceptedRegs i r).opa = r.opa ∧ (acceptedRegs i r).opb = r.opb := by
  cases i with
  | nop => exact ⟨rfl, rfl, rfl, rfl, rfl⟩
  | clear => exact ⟨rfl, rfl, rfl, rfl, rfl⟩
  | step => exact ⟨rfl, rfl, rfl, rfl, rfl⟩
  | run =>
    rw [acceptedRegs]
    rcases runRegs_cases r with ⟨-, he⟩ | ⟨-, -, he⟩ | ⟨-, -, -, he⟩ | ⟨-, -, -, -, he⟩ | ⟨-, -, -, -, he⟩ <;>
      rw [he] <;> exact ⟨rfl, rfl, rfl, rfl, rfl⟩

/-- Settles O33: a dropped command sets OVR alone, and an accepted one has its effect on the registers alone. -/
theorem commandFrame : Obligations.CommandFrame := by
  intro i s t h
  rcases exec_cases h with ⟨hb, rfl⟩ | ⟨hb, rfl⟩
  · exact ⟨rfl, rfl, rfl, rfl, rfl, fun _ => rfl, rfl, rfl, rfl, rfl, fun _ => ⟨rfl, rfl⟩, fun _ => ⟨rfl, rfl⟩,
      fun _ idle => absurd (hb.symm.trans idle) nofun, fun _ => rfl⟩
  · obtain ⟨hx, hy, hk, ha, ho⟩ := acceptedRegs_operands i s.regs
    refine ⟨hx, hy, hk, ha, ho, fun _ => rfl, rfl, rfl, rfl, rfl, ?_, ?_,
      fun notClear _ => acceptedRegs_ovr notClear s.regs, fun busy => absurd (hb.symm.trans busy) nofun⟩
    · rintro (rfl | rfl)
      · exact ⟨rfl, rfl⟩
      · exact ⟨rfl, rfl⟩
    · rintro rfl
      exact ⟨rfl, rfl⟩

/-! ### RUN without an error (R125) -/

/-- The registers of a run just started: nothing is counted yet. -/
def startedRegs (r : Regs) : Regs :=
  { runPrepared (niterOf (sint64 r.k).toNat) r with
    status := { r.status with busy := true, done := false, err := false, cause := .none } }

theorem runRegs_started {r : Regs} (hk : 0 < sint64 r.k) (hx : r.xBase.toNat % 8 = 0) (hy : r.yBase.toNat % 8 = 0) :
    runRegs r = startedRegs r := by
  rcases runRegs_cases r with ⟨hneg, -⟩ | ⟨-, h0, -⟩ | ⟨-, -, hx', -⟩ | ⟨-, -, -, hy', -⟩ | ⟨-, -, -, -, he⟩
  · exact absurd hneg hk.not_gt
  · rw [niterOf_eq_zero] at h0
    omega
  · exact absurd hx (aligned8_eq_false_iff.mp hx')
  · exact absurd hy (aligned8_eq_false_iff.mp hy')
  · exact he

theorem runRegs_empty {r : Regs} (hk : sint64 r.k = 0) : runRegs r = markDone (runPrepared 0 r) := by
  have no_words : niterOf (sint64 r.k).toNat = 0 := by rw [hk]; rfl
  rcases runRegs_cases r with ⟨hneg, -⟩ | ⟨-, -, he⟩ | ⟨-, hn, -⟩ | ⟨-, hn, -⟩ | ⟨-, hn, -⟩
  · omega
  · exact he
  all_goals exact absurd no_words hn

/-- Settles O26: RUN's fifth way with words to read, its second with none. -/
theorem runStartsOrIsDone : Obligations.RunStartsOrIsDone := by
  intro s hb hk
  refine ⟨fun hpos hx hy => ⟨_, exec_idle hb .run, ?_⟩, fun hzero => ⟨_, exec_idle hb .run, ?_⟩⟩
  · rw [acceptedRegs, runRegs_started hpos hx hy]
    exact ⟨rfl, rfl, rfl, ofNat_niterOf_toNat hk, rfl⟩
  · rw [acceptedRegs, runRegs_empty hzero, markDone_runPrepared_idle hb]
    exact ⟨rfl, rfl, rfl, rfl, rfl, rfl⟩

end Sys2Proof.Proofs
end

section
/-! PROOFS. The engine's turns (41_commands.md R126, 20_memory.md section 3): which addresses they read, what a refused
read leaves, and where the writes of other agents land. -/

namespace Sys2Proof.Proofs
open Sys2Proof.Machine

/-! ### The reads of an engine turn (20_memory.md R60) -/

section
variable {p : Platform} {m m' : Memory} {r r' : Regs} {as : List Word}

theorem engineEffect_reads_busy (h : EngineEffect p m m' r as r') (hb : r.status.busy = true) :
    as = if memAdmit p (addrX r r.idx.toNat) = true then [addrX r r.idx.toNat, addrY r r.idx.toNat]
      else [addrX r r.idx.toNat] := by
  cases h with
  | idle idle => rw [hb] at idle; cases idle
  | pair _ hx => rw [if_pos hx]
  | busErrorX _ hx => rw [hx, if_neg Bool.false_ne_true]
  | busErrorY _ hx => rw [if_pos hx]

theorem engineEffect_reads_idle (h : EngineEffect p m m' r as r') (hb : r.status.busy = false) : as = [] := by
  cases h with
  | idle => rfl
  | pair busy => rw [hb] at busy; cases busy
  | busErrorX busy => rw [hb] at busy; cases busy
  | busErrorY busy => rw [hb] at busy; cases busy

/-- A read the platform refuses ends the run by BUS_ERROR with its address (R205). -/
theorem engineEffect_refused (h : EngineEffect p m m' r as r') {a : Word} (ha : a ∈ as)
    (refused : memAdmit p a = false) :
    r'.status.err = true ∧ r'.status.cause = .busError ∧ r'.faultInfo = a := by
  have not_admitted {b : Word} (hb : memAdmit p b = true) : a ≠ b := by
    rintro rfl
    rw [refused] at hb
    cases hb
  cases h with
  | idle => cases ha
  | pair _ hx hy => simp [not_admitted hx, not_admitted hy] at ha
  | busErrorX =>
    obtain rfl := List.mem_singleton.mp ha
    exact ⟨rfl, rfl, rfl⟩
  | busErrorY _ hx =>
    obtain rfl : a = _ := by simpa [not_admitted hx] using ha
    exact ⟨rfl, rfl, rfl⟩

end

section
variable {s t : State}

theorem step_reads_of_not_engine (h : step s = .next t) (turn : ¬ turnIsEngine s) : t.reads = [] := by
  rcases step_cases h with ⟨hp, -⟩ | ⟨e, rest, hp, he⟩
  · exact absurd (.inl hp) turn
  rcases he with ⟨a, -, he⟩ | ⟨ws, rfl, -⟩ | ⟨w, -, rfl⟩ | ⟨-, rfl⟩
  · obtain ⟨-, hr⟩ := hostAccess_mem_reads he
    exact hr
  · exact absurd (.inr ⟨ws, by rw [turnIs, hp]; rfl⟩) turn
  · rfl
  · rfl

end

/-- Settles O21: an engine turn in a run reads x and then, if x was answered, y; no other turn reads. -/
theorem engineReadsXBeforeY : Obligations.EngineReadsXBeforeY := by
  refine fun s t h => ⟨fun quiet => ?_, fun turn hb => engineEffect_reads_busy (step_engine_effect turn h) hb⟩
  by_cases turn : turnIsEngine s
  · exact engineEffect_reads_idle (step_engine_effect turn h) (quiet.resolve_left (not_not.mpr turn))
  · exact step_reads_of_not_engine h turn

/-- R59: the window's bytes are those from BLOCK_BASE to BLOCK_BASE + 0x7F. -/
theorem memAdmit_of_window {p : Platform} {a : Word}
    (h : ∃ j < 8, p.blockBase ≤ a.toNat + j ∧ a.toNat + j ≤ p.blockBase + 0x7F) : memAdmit p a = false := by
  obtain ⟨j, hj, hlo, hhi⟩ := h
  exact memAdmit_eq_false_of_window (overlapsWindow_iff.mpr ⟨j, hj, hlo, Nat.lt_succ_of_le hhi⟩)

/-- Settles O18: the window is never admitted, and an engine turn that reads an address not admitted records it. -/
theorem ownWindowRaisesBusError : Obligations.OwnWindowRaisesBusError :=
  ⟨fun _ _ => memAdmit_of_window, fun _ _ _ turn _ h window ha =>
    engineEffect_refused (step_engine_effect turn h) ha (memAdmit_of_window window)⟩

/-! ### Engine turns that read well, and idle ones -/

section
variable {s t : State}

/-- The engine step on an admitted word pair: x from the memory before the writes of other agents land, y from the
memory after them. -/
theorem step_engine_admitted (turn : turnIsEngine s) (hb : s.regs.status.busy = true)
    (hx : s.regs.xBase.toNat % 8 = 0) (hy : s.regs.yBase.toNat % 8 = 0)
    (hax : memAdmit s.platform (addrX s.regs s.regs.idx.toNat) = true)
    (hay : memAdmit s.platform (addrY s.regs s.regs.idx.toNat) = true) :
    ∃ t, step s = .next t ∧ t.mem = landWrites s.mem (turnWrites s) ∧
      t.regs = enginePair (wordX s s.regs.idx.toNat) (memWord t.mem (addrY s.regs s.regs.idx.toNat)) s.regs := by
  rw [step_of_turnIsEngine turn, engineTurn_busy (s := turnTaken s (laterTurns s)) hb,
    enginePairStep_aligned (s := turnTaken s (laterTurns s)) hx hy]
  simp only [turnTaken_regs, turnTaken_platform, hax, hay, Bool.true_eq_false, if_false]
  exact ⟨_, rfl, rfl, rfl⟩

end

/-- Settles O35: the engine step of such a turn, its two words named. -/
theorem writesLandBetweenTheTwoReads : Obligations.WritesLandBetweenTheTwoReads := by
  intro s ws rest hp hb hx hy hax hay
  obtain ⟨t, h, hm, hr⟩ := step_engine_admitted (.inr ⟨ws, by rw [turnIs, hp]; rfl⟩) hb hx hy hax hay
  have writes : turnWrites s = ws := by rw [turnWrites, hp]; rfl
  rw [writes] at hm
  refine ⟨t, h, hm, ?_⟩
  rw [hr, hm, enginePair_eq]

/-- Settles O36: an idle engine turn without writes of other agents leaves the state the turn was taken from. -/
theorem idleBlockRests : Obligations.IdleBlockRests := by
  refine fun s hb => ⟨fun hp => ?_, fun rest hp => ?_⟩
  · rw [step_nil hp, engineTurn_idle (s := turnTaken s []) hb, ← hp]
    rfl
  · exact (step_cons hp).trans (engineTurn_idle (s := turnTaken s rest) hb)

end Sys2Proof.Proofs
end

section
/-! PROOFS. Runs to their end (41_commands.md section 3, 70_reset_and_hazards.md R262): with the engine alone moving, the
state after each of a run's steps, and that every run ends. -/

namespace Sys2Proof.Proofs
open Sys2Proof.Machine

/-! ### Turns of the engine alone -/

/-- The next `n` turns are the engine's, and no other agent's write lands in them. -/
def engineAlone (n : Nat) (s : State) : Prop := ∀ e ∈ s.pending.take n, e = .engine []

section
variable {s t : State}

theorem engineAlone_turn {n : Nat} (h : engineAlone (n + 1) s) : turnIsEngine s ∧ turnWrites s = [] := by
  rw [turnWrites]
  cases hp : s.pending with
  | nil => exact ⟨.inl hp, rfl⟩
  | cons e rest =>
    have he : e = .engine [] := h e (by simp [hp])
    exact ⟨.inr ⟨[], by rw [turnIs, hp, he]; rfl⟩, by rw [he]; rfl⟩

theorem laterTurns_eq_drop (s : State) : laterTurns s = s.pending.drop 1 := by
  rw [laterTurns]
  cases s.pending <;> rfl

/-! ### A run from its start -/

/-- A run just started, which the engine can take to its end: aligned bases, every read admitted, nobody else moving. -/
structure FreshRun (t : State) : Prop where
  busy : t.regs.status.busy = true
  acc : t.regs.acc = 0
  idx : t.regs.idx = 0
  niter_pos : 0 < t.regs.niter.toNat
  x_aligned : t.regs.xBase.toNat % 8 = 0
  y_aligned : t.regs.yBase.toNat % 8 = 0
  admits : admitsRun t t.regs.niter.toNat
  alone : engineAlone t.regs.niter.toNat t

/-- The registers after `j` engine steps of a run on the words `x` and `y` that started with the registers `r`. -/
def runRegsAt (x y : Nat → Word) (r : Regs) (j : Nat) : Regs :=
  { r with
    acc := BitVec.ofNat 64 (∑ i ∈ Finset.range j, pxa (x i) (y i))
    idx := BitVec.ofNat 64 j
    status := if j = r.niter.toNat then { r.status with busy := false, done := true } else r.status }

theorem runRegsAt_zero (x y : Nat → Word) {r : Regs} (hacc : r.acc = 0) (hidx : r.idx = 0)
    (hn : 0 < r.niter.toNat) : runRegsAt x y r 0 = r :=
  calc runRegsAt x y r 0
    _ = (r.setAcc 0).setIdx 0 := by rw [runRegsAt, if_neg hn.ne]; rfl
    _ = (r.setAcc r.acc).setIdx r.idx := by rw [hacc, hidx]
    _ = r := rfl

theorem runRegsAt_idx_toNat (x y : Nat → Word) {r : Regs} {j : Nat} (hj : j ≤ r.niter.toNat) :
    (runRegsAt x y r j).idx.toNat = j := by
  have hlt := r.niter.isLt
  exact (BitVec.toNat_ofNat _ _).trans (Nat.mod_eq_of_lt (by omega))

theorem runRegsAt_status_of_lt (x y : Nat → Word) {r : Regs} {j : Nat} (hj : j < r.niter.toNat) :
    (runRegsAt x y r j).status = r.status := if_neg hj.ne

/-- The engine's effect on the next word pair: one more pair is counted, and the last one ends the run. -/
theorem enginePair_runRegsAt (x y : Nat → Word) {r : Regs} {j : Nat} (hj : j < r.niter.toNat) :
    enginePair (x j) (y j) (runRegsAt x y r j) = runRegsAt x y r (j + 1) := by
  have sum_succ : accumulate (runRegsAt x y r j).acc (x j) (y j) =
      BitVec.ofNat 64 (∑ i ∈ Finset.range (j + 1), pxa (x i) (y i)) := by
    rw [Finset.sum_range_succ]
    apply BitVec.eq_of_toNat_eq
    rw [accumulate_toNat, runRegsAt, BitVec.toNat_ofNat, BitVec.toNat_ofNat, Nat.mod_add_mod]
  rw [enginePair_eq, sum_succ, runRegsAt_idx_toNat x y hj.le, runRegsAt_status_of_lt x y hj]
  rfl

/-- The state `w` after `j` engine steps of the run that `t` begins. -/
structure RunAt (t : State) (j : Nat) (w : State) : Prop where
  regs : w.regs = runRegsAt (wordX t) (wordY t) t.regs j
  mem : w.mem = t.mem
  platform : w.platform = t.platform
  pending : w.pending = t.pending.drop j

theorem FreshRun.runAt_zero (ht : FreshRun t) : RunAt t 0 t :=
  ⟨(runRegsAt_zero _ _ ht.acc ht.idx ht.niter_pos).symm, rfl, rfl, rfl⟩

theorem FreshRun.busy_at (ht : FreshRun t) {j : Nat} {w : State} (hw : RunAt t j w)
    (hj : j < t.regs.niter.toNat) : w.regs.status.busy = true := by
  rw [hw.regs, runRegsAt_status_of_lt _ _ hj, ht.busy]

theorem FreshRun.engineAlone_at (ht : FreshRun t) {j : Nat} {w : State} (hw : RunAt t j w)
    (hj : j < t.regs.niter.toNat) : engineAlone 1 w := by
  intro e he
  rw [hw.pending, List.take_drop] at he
  exact ht.alone e (List.take_subset_take_left _ (by omega) (List.mem_of_mem_drop he))

theorem FreshRun.step_runAt (ht : FreshRun t) {j : Nat} {w : State} (hw : RunAt t j w)
    (hj : j < t.regs.niter.toNat) : ∃ w', step w = .next w' ∧ RunAt t (j + 1) w' := by
  have hidx : w.regs.idx.toNat = j := by rw [hw.regs, runRegsAt_idx_toNat _ _ hj.le]
  have hxb : w.regs.xBase = t.regs.xBase := by rw [hw.regs]; rfl
  have hyb : w.regs.yBase = t.regs.yBase := by rw [hw.regs]; rfl
  obtain ⟨hax, hay⟩ := ht.admits j hj
  obtain ⟨turn, quiet⟩ := engineAlone_turn (ht.engineAlone_at hw hj)
  obtain ⟨w', h, hm, hr⟩ := step_engine_admitted turn (ht.busy_at hw hj) (hxb ▸ ht.x_aligned) (hyb ▸ ht.y_aligned)
    (by rw [hidx, addrX, hxb, hw.platform]; exact hax) (by rw [hidx, addrY, hyb, hw.platform]; exact hay)
  obtain ⟨hp, hl⟩ := platformIsFixed w w' h
  have hmem : w'.mem = t.mem := by rw [hm, quiet]; exact hw.mem
  refine ⟨w', h, ?_, hmem, hp.trans hw.platform, ?_⟩
  · rw [hr, hidx, wordX, hw.mem, hmem, addrX, addrY, hxb, hyb, hw.regs]
    exact enginePair_runRegsAt (wordX t) (wordY t) hj
  · rw [hl, laterTurns_eq_drop, hw.pending, List.drop_drop]

/-- The engine takes a fresh run through all its word pairs. -/
theorem FreshRun.runSteps_runAt (ht : FreshRun t) {j : Nat} (hj : j ≤ t.regs.niter.toNat) :
    ∃ w, runSteps j t = .next w ∧ RunAt t j w := by
  induction j with
  | zero => exact ⟨t, rfl, ht.runAt_zero⟩
  | succ j ih =>
    obtain ⟨w, hrun, hw⟩ := ih (by omega)
    obtain ⟨w', h, hw'⟩ := ht.step_runAt hw hj
    exact ⟨w', by rw [runSteps_append hrun, runSteps_succ h, runSteps_zero], hw'⟩

/-! ### A successful RUN (R130) -/

theorem hd_toNat_lt (x y : Nat → Word) {v : Word} (hk : 0 ≤ sint64 v) : hd x y (sint64 v).toNat < 2 ^ 64 := by
  have hn := niterOf_sint64_le hk
  have hd_le : hd x y (sint64 v).toNat ≤ 64 * niterOf (sint64 v).toNat := by
    simpa [hd] using sum_map_le (fun i => pxa (x i) (y i)) 64 (fun i => pxa_le _ _) (List.range _)
  omega

/-- The registers a successful RUN leaves in the end. -/
def completedRegs (s : State) : Regs :=
  let k := (sint64 s.regs.k).toNat
  { s.regs with
    acc := BitVec.ofNat 64 (hd (wordX s) (wordY s) k)
    niter := BitVec.ofNat 64 (niterOf k)
    idx := BitVec.ofNat 64 (niterOf k)
    faultInfo := 0
    status := { busy := false, done := true, err := false, ovr := s.regs.status.ovr, cause := .none } }

theorem completedRegs_acc_toNat (hk : 0 ≤ sint64 s.regs.k) :
    (completedRegs s).acc.toNat = hd (wordX s) (wordY s) (sint64 s.regs.k).toNat :=
  (BitVec.toNat_ofNat _ _).trans (Nat.mod_eq_of_lt (hd_toNat_lt _ _ hk))

/-- What makes a RUN of an idle block successful: K not negative, aligned bases if there are words, every read admitted,
nobody else moving. -/
structure RunSucceeds (s : State) : Prop where
  idle : s.regs.status.busy = false
  k_nonneg : 0 ≤ sint64 s.regs.k
  aligned : 0 < niterOf (sint64 s.regs.k).toNat → s.regs.xBase.toNat % 8 = 0 ∧ s.regs.yBase.toNat % 8 = 0
  admits : admitsRun s (niterOf (sint64 s.regs.k).toNat)
  alone : engineAlone (niterOf (sint64 s.regs.k).toNat) s

theorem RunSucceeds.empty (hs : RunSucceeds s) (hk : sint64 s.regs.k = 0) : runRegs s.regs = completedRegs s := by
  rw [runRegs_empty hk, markDone_runPrepared_idle hs.idle, completedRegs, hk]
  rfl

theorem RunSucceeds.freshRun (hs : RunSucceeds s) (hk : 0 < sint64 s.regs.k) :
    runRegs s.regs = startedRegs s.regs ∧ FreshRun (s.setRegs (startedRegs s.regs)) := by
  have hn : 0 < niterOf (sint64 s.regs.k).toNat := by
    rw [Nat.pos_iff_ne_zero, Ne, niterOf_eq_zero]
    omega
  obtain ⟨hx, hy⟩ := hs.aligned hn
  have niter_eq : (startedRegs s.regs).niter.toNat = niterOf (sint64 s.regs.k).toNat := ofNat_niterOf_toNat hs.k_nonneg
  refine ⟨runRegs_started hk hx hy, rfl, rfl, rfl, ?_, hx, hy, ?_, ?_⟩
  · exact hn.trans_eq niter_eq.symm
  · rw [State.setRegs_regs, niter_eq]; exact hs.admits
  · rw [State.setRegs_regs, niter_eq]; exact hs.alone

/-- The last state of a run is that of a completed RUN. -/
theorem runRegsAt_started (hk : 0 ≤ sint64 s.regs.k) :
    runRegsAt (wordX s) (wordY s) (startedRegs s.regs) (niterOf (sint64 s.regs.k).toNat) = completedRegs s := by
  have niter_eq : (startedRegs s.regs).niter.toNat = niterOf (sint64 s.regs.k).toNat := ofNat_niterOf_toNat hk
  rw [runRegsAt, if_pos niter_eq.symm, ← hd_eq_sum]
  rfl

/-- A successful RUN is in progress for NITER(k) engine steps, and then completed. -/
theorem RunSucceeds.completes (hs : RunSucceeds s) :
    (∀ j < niterOf (sint64 s.regs.k).toNat,
      ∃ w, runSteps j (s.setRegs (runRegs s.regs)) = .next w ∧ w.regs.status.busy = true) ∧
    ∃ u, runSteps (niterOf (sint64 s.regs.k).toNat) (s.setRegs (runRegs s.regs)) = .next u ∧
      u.regs = completedRegs s ∧ u.mem = s.mem ∧ u.platform = s.platform ∧
      u.pending = s.pending.drop (niterOf (sint64 s.regs.k).toNat) := by
  rcases hs.k_nonneg.eq_or_lt with hk | hk
  · rw [hs.empty hk.symm, ← hk]
    exact ⟨fun j hj => absurd hj (Nat.not_lt_zero j), _, rfl, rfl, rfl, rfl, rfl⟩
  obtain ⟨started, fresh⟩ := hs.freshRun hk
  have niter_eq : (startedRegs s.regs).niter.toNat = niterOf (sint64 s.regs.k).toNat := ofNat_niterOf_toNat hs.k_nonneg
  rw [started]
  constructor
  · intro j hj
    rw [← niter_eq] at hj
    obtain ⟨w, hrun, hw⟩ := fresh.runSteps_runAt hj.le
    exact ⟨w, hrun, fresh.busy_at hw hj⟩
  · obtain ⟨u, hrun, hu⟩ := fresh.runSteps_runAt niter_eq.ge
    exact ⟨u, hrun, hu.regs.trans (runRegsAt_started hs.k_nonneg), hu.mem, hu.platform, hu.pending⟩

end

/-- Settles O56: with no turn pending the engine is alone, and takes the accepted RUN to its end. -/
theorem runComputesTheHammingDistance : Obligations.RunComputesTheHammingDistance := by
  intro s hb hp hk k n aligned admits
  have hs : RunSucceeds s := ⟨hb, hk, aligned, admits, by simp [engineAlone, hp]⟩
  obtain ⟨in_progress, u, hrun, hregs, hmem, -, -⟩ := hs.completes
  refine ⟨_, u, exec_idle hb .run, in_progress, hrun, ?_, ?_, hmem⟩
  · rw [hregs, completedRegs_acc_toNat hk]
  · rw [hregs]
    rfl

/-! ### Termination (R262) -/

section
variable {s t : State}

theorem step_engine_next (hs : RegsInv s.regs) (turn : turnIsEngine s) : ∃ t, step s = .next t := by
  cases h : step s with
  | next t => exact ⟨t, rfl⟩
  | fault f => exact absurd h (step_not_fault hs f)
  | refused q =>
    obtain ⟨-, a, host⟩ := step_refused h
    exact absurd host (not_turnIs_of_engine turn nofun)

/-- An engine step of a run either ends it or takes one word pair off those left. -/
theorem step_engine_progress (hs : RegsInv s.regs) (hb : s.regs.status.busy = true) (turn : turnIsEngine s)
    (h : step s = .next t) :
    (t.regs.status.busy = false ∧ (t.regs.status.done = true ∨ t.regs.status.cause = .busError)) ∨
    (t.regs.status.busy = true ∧ t.regs.idx.toNat = s.regs.idx.toNat + 1 ∧ t.regs.niter = s.regs.niter) := by
  cases hb' : t.regs.status.busy with
  | false =>
    obtain reset | ⟨-, ⟨hdone, -⟩ | ⟨-, hcause, -⟩⟩ := (busy_falls_iff h hb).mp hb'
    · exact absurd reset (not_turnIs_of_engine turn nofun)
    · exact .inl ⟨rfl, .inl hdone⟩
    · exact .inl ⟨rfl, .inr hcause⟩
  | true =>
    have he := step_engine_effect turn h
    obtain ⟨-, -, -, hn⟩ := runOperands_inj.mp (engineEffect_operands he)
    refine .inr ⟨rfl, ?_, hn⟩
    generalize t.regs = r, t.reads = as at he hb' ⊢
    cases he with
    | idle idle => rw [hb] at idle; cases idle
    | pair => rw [enginePair_eq]; exact ofNat_idx_succ_toNat hs hb
    | busErrorX => cases hb'
    | busErrorY => cases hb'

/-- A run ends within any number of engine steps that covers its word pairs left. -/
theorem run_ends {d : Nat} (hs : RegsInv s.regs) (hb : s.regs.status.busy = true) (hp : s.pending = [])
    (hd : s.regs.niter.toNat - s.regs.idx.toNat ≤ d) :
    ∃ n t, n ≤ d ∧ runSteps n s = .next t ∧ t.regs.status.busy = false ∧
      (t.regs.status.done = true ∨ t.regs.status.cause = .busError) := by
  induction d generalizing s with
  | zero =>
    have hlt := (hs.run hb).idx_lt
    omega
  | succ d ih =>
    obtain ⟨t, h⟩ := step_engine_next hs (.inl hp)
    rcases step_engine_progress hs hb (.inl hp) h with ⟨ended, how⟩ | ⟨busy, hidx, hn⟩
    · exact ⟨1, t, by omega, by rw [runSteps_succ h, runSteps_zero], ended, how⟩
    · obtain ⟨-, hl⟩ := platformIsFixed s t h
      have hp' : t.pending = [] := by rw [hl, laterTurns, hp]
      obtain ⟨n, u, hle, hrun, ended, how⟩ := ih (step_regsInv h hs) busy hp' (by rw [hidx, hn]; omega)
      exact ⟨n + 1, u, by omega, by rw [runSteps_succ h, hrun], ended, how⟩

end

/-- Settles O57: the number of word pairs left covers itself. -/
theorem everyRunEnds : Obligations.EveryRunEnds := fun _ hs hb hp => run_ends hs.regs hb hp le_rfl

end Sys2Proof.Proofs
end

section
/-! PROOFS. Memory bit by bit and byte by byte (20_memory.md R51 to R56, R60): how a buffer's bits lie in memory, and that
a word written by another agent is read back. -/

namespace Sys2Proof.Proofs
open Sys2Proof.Machine

/-! ### The bits of a buffer (R53, R56) -/

theorem memWord_getLsbD (m : Memory) (a : Word) {j i : Nat} (hj : j < 8) (hi : i < 8) :
    (memWord m a).getLsbD (8 * j + i) = (memGet m (a + BitVec.ofNat 64 j).toNat).getLsbD i := by
  rw [getLsbD_byte _ hi, memWord_byte m a hj]

/-- Bit `b` of a buffer lies in the byte `b div 8` above its base, addresses modulo 2^64. -/
theorem buffer_getLsbD (m : Memory) {base : Word} (hbase : base.toNat % 8 = 0) (b : Nat) :
    (memWord m (wordAddr base (b / 64))).getLsbD (b % 64) =
      (memGet m ((base.toNat + b / 8) % 2 ^ 64)).getLsbD (b % 8) := by
  have in_word : b % 64 = 8 * (b / 8 % 8) + b % 8 := by omega
  have aligned : (wordAddr base (b / 64)).toNat % 8 = 0 := by rw [wordAddr_toNat]; omega
  have address : (wordAddr base (b / 64) + BitVec.ofNat 64 (b / 8 % 8)).toNat = (base.toNat + b / 8) % 2 ^ 64 := by
    rw [toNat_add_of_aligned aligned (Nat.mod_lt _ (by decide)), wordAddr_toNat]
    omega
  rw [in_word, memWord_getLsbD m _ (Nat.mod_lt _ (by decide)) (Nat.mod_lt _ (by decide)), address]

/-- Settles O16: the same for either base. -/
theorem bufferBitsArePackedLowToHigh : Obligations.BufferBitsArePackedLowToHigh :=
  fun s b hx hy => ⟨buffer_getLsbD s.mem hx b, buffer_getLsbD s.mem hy b⟩

/-! ### Bytes written (R60) -/

theorem add_one_add_ofNat (a : Word) (j : Nat) : a + 1 + BitVec.ofNat 64 j = a + BitVec.ofNat 64 (j + 1) := by
  rw [BitVec.add_assoc, Nat.add_comm j 1, BitVec.ofNat_add]
  rfl

theorem memGet_memSetBytes_of_ne (bs : List Byte) (m : Memory) (a : Word) {x : Nat}
    (h : ∀ j < bs.length, (a + BitVec.ofNat 64 j).toNat ≠ x) : memGet (memSetBytes bs m a) x = memGet m x := by
  induction bs generalizing m a with
  | nil => rfl
  | cons b bs ih =>
    have first : x ≠ a.toNat := by
      have differs := h 0 (Nat.zero_lt_succ _)
      rw [BitVec.add_zero] at differs
      exact differs.symm
    rw [memSetBytes, ih _ _ fun j hj => add_one_add_ofNat a j ▸ h (j + 1) (Nat.succ_lt_succ hj),
      memGet_memSet_other m b first]

/-- The addresses of a write of at most 2^64 bytes are all different. -/
theorem add_ofNat_succ_ne {n : Nat} (hn : n < 2 ^ 64) (a : Word) {j : Nat} (hj : j < n) :
    (a + 1 + BitVec.ofNat 64 j).toNat ≠ a.toNat := by
  have ha := a.isLt
  rw [add_one_add_ofNat, BitVec.toNat_add, BitVec.toNat_ofNat]
  omega

theorem memGet_memSetBytes_same {bs : List Byte} (hlen : bs.length ≤ 2 ^ 64) {m : Memory} (hm : m.wf = true) (a : Word)
    {j : Nat} (hj : j < bs.length) : memGet (memSetBytes bs m a) (a + BitVec.ofNat 64 j).toNat = bs[j] := by
  induction bs generalizing m a j with
  | nil => cases hj
  | cons b bs ih =>
    rw [memSetBytes]
    cases j with
    | zero =>
      rw [BitVec.add_zero, memGet_memSetBytes_of_ne _ _ _ fun j hj => add_ofNat_succ_ne hlen a hj, memGet_memSet_same hm]
      rfl
    | succ j =>
      rw [← add_one_add_ofNat]
      exact ih (Nat.le_of_succ_le hlen) (memSet_wf hm a.isLt b) (a + 1) (Nat.lt_of_succ_lt_succ hj)

/-! ### Words written (R52) -/

theorem wordBytes_length (v : Word) : (wordBytes v).length = 8 := rfl

theorem wordBytes_getElem (v : Word) {j : Nat} (hj : j < (wordBytes v).length) :
    (wordBytes v)[j] = v.extractLsb' (8 * j) 8 := by
  simp [wordBytes]

theorem eq_of_bytes_eq {v w : Word} (h : ∀ j < 8, v.extractLsb' (8 * j) 8 = w.extractLsb' (8 * j) 8) : v = w := by
  refine BitVec.eq_of_getLsbD_eq fun i hi => ?_
  rw [← Nat.div_add_mod i 8, getLsbD_byte v (Nat.mod_lt _ (by decide)), getLsbD_byte w (Nat.mod_lt _ (by decide)),
    h (i / 8) (by omega)]

theorem memWord_memSetBytes_wordBytes {m : Memory} (hm : m.wf = true) (a v : Word) :
    memWord (memSetBytes (wordBytes v) m a) a = v := by
  refine eq_of_bytes_eq fun j hj => ?_
  have in_word : j < (wordBytes v).length := hj
  have short : (wordBytes v).length ≤ 2 ^ 64 := by rw [wordBytes_length]; decide
  rw [memWord_byte _ a hj, memGet_memSetBytes_same short hm a in_word, wordBytes_getElem]

/-- Settles O19: the turn lands the word's bytes, which are read back at its address and leave the others. -/
theorem platformWriteIsReadBack : Obligations.PlatformWriteIsReadBack := by
  intro s a v rest hm ha hp
  refine ⟨memSetBytes (wordBytes v) s.mem a, step_cons hp, memWord_memSetBytes_wordBytes hm a v, fun x hx => ?_⟩
  refine memGet_memSetBytes_of_ne _ _ _ fun j hj => ?_
  rw [wordBytes_length] at hj
  rw [toNat_add_of_aligned ha hj]
  omega

end Sys2Proof.Proofs
end

section
/-! PROOFS. The registers as a host sees them (10_state.md section 2, 42_register_access.md): the layout of STATUS, a read
after a write, and which steps can change an operand register or a result. -/

namespace Sys2Proof.Proofs
open Sys2Proof.Machine

/-! ### STATUS as a word (R22) -/

theorem statusWord_toNat (st : Status) :
    (statusWord st).toNat =
      st.busy.toNat + 2 * st.done.toNat + 4 * st.err.toNat + 8 * st.ovr.toNat + 256 * (causeCode st.cause).toNat := by
  have hb := st.busy.toNat_le
  have hd := st.done.toNat_le
  have he := st.err.toNat_le
  have ho := st.ovr.toNat_le
  have hc := (causeCode st.cause).isLt
  rw [statusWord, BitVec.toNat_ofNat]
  omega

/-- A bit of a word is the flag its number says. -/
theorem getLsbD_eq_of_toNat {v : Word} {i : Nat} {b : Bool} (h : v.toNat / 2 ^ i % 2 = b.toNat) : v.getLsbD i = b := by
  rw [← BitVec.testBit_toNat, Nat.testBit_eq_decide_div_mod_eq, h]
  cases b <;> rfl

theorem extractLsb'_eq_of_toNat {v : Word} {lo n : Nat} {x : BitVec n} (h : v.toNat / 2 ^ lo % 2 ^ n = x.toNat) :
    v.extractLsb' lo n = x := by
  apply BitVec.eq_of_toNat_eq
  rw [BitVec.extractLsb'_toNat, Nat.shiftRight_eq_div_pow, h]

/-- Settles O39: each field is a quotient and remainder of the number STATUS is. -/
theorem statusWordLayout : Obligations.StatusWordLayout := by
  refine ⟨fun st => ?_, rfl, rfl, rfl, rfl, rfl, rfl⟩
  have value := statusWord_toNat st
  have hb := st.busy.toNat_le
  have hd := st.done.toNat_le
  have he := st.err.toNat_le
  have ho := st.ovr.toNat_le
  have hc := (causeCode st.cause).isLt
  refine ⟨getLsbD_eq_of_toNat ?_, getLsbD_eq_of_toNat ?_, getLsbD_eq_of_toNat ?_, getLsbD_eq_of_toNat ?_,
    extractLsb'_eq_of_toNat ?_, extractLsb'_eq_of_toNat ?_, extractLsb'_eq_of_toNat ?_⟩ <;> rw [value]
  · omega
  · omega
  · omega
  · omega
  · change _ = 0; omega
  · omega
  · change _ = 0; omega

/-! ### A read after a write (R158) -/

theorem write_then_read {s : State} {reg : RegName} {v : Word} {rest : List Event}
    (hp : s.pending = writeAt s.platform reg.offset v :: readAt s.platform reg.offset :: rest) :
    ∃ t, runSteps 2 s = .next t ∧ t.pending = rest ∧
      t.reply = some (portRead (some reg) (writtenRegs (some reg) v s.regs)) := by
  have hlt := offset_lt reg
  have read := step_readAt (s := (turnTaken s (readAt s.platform reg.offset :: rest)).setRegs
    (writtenRegs (some reg) v s.regs)) (rest := rest) rfl (offset_aligned reg) (by omega)
  rw [regAt_eq_some.mpr rfl] at read
  exact ⟨_, by rw [runSteps_succ (step_writeReg hp), runSteps_succ read, runSteps_zero], rfl, rfl⟩

/-- The registers a host can write with a value it then reads back (R154, R155). -/
def isOperand : RegName → Bool
  | .xBase | .yBase | .k | .opa | .opb => true
  | .cmd | .status | .acc | .niter | .idx | .faultInfo => false

theorem offset_of_operand {off : Nat} (h : off = 0x10 ∨ off = 0x18 ∨ off = 0x20 ∨ off = 0x30 ∨ off = 0x38) :
    ∃ reg, isOperand reg = true ∧ off = reg.offset := by
  rcases h with rfl | rfl | rfl | rfl | rfl
  exacts [⟨.xBase, rfl, rfl⟩, ⟨.yBase, rfl, rfl⟩, ⟨.k, rfl, rfl⟩, ⟨.opa, rfl, rfl⟩, ⟨.opb, rfl, rfl⟩]

/-- An operand register reads as written, or as before where the write was dropped. -/
theorem portRead_writtenRegs {reg : RegName} (hreg : isOperand reg = true) (v : Word) (r : Regs) :
    portRead (some reg) (writtenRegs (some reg) v r) =
      if r.status.busy = true ∧ busyGuarded (some reg) = true then portRead (some reg) r else v := by
  by_cases dropped : r.status.busy = true ∧ busyGuarded (some reg) = true
  · obtain ⟨busy, guarded⟩ := dropped
    rw [if_pos ⟨busy, guarded⟩, writtenRegs_dropped busy guarded]
    match reg, hreg with
    | .xBase, _ | .yBase, _ | .k, _ | .opa, _ | .opb, _ => rfl
  · rw [if_neg dropped]
    have idle (guarded : busyGuarded (some reg) = true) : r.status.busy = false := by
      rw [← Bool.not_eq_true]
      exact fun busy => dropped ⟨busy, guarded⟩
    match reg, hreg with
    | .xBase, _ => rw [writtenRegs, unlessBusy_idle (idle rfl)]; rfl
    | .yBase, _ => rw [writtenRegs, unlessBusy_idle (idle rfl)]; rfl
    | .k, _ => rw [writtenRegs, unlessBusy_idle (idle rfl)]; rfl
    | .opa, _ | .opb, _ => rfl

/-- Settles O43: the read answers the register the write left, stored or dropped. -/
theorem readAfterWriteSeesTheWrite : Obligations.ReadAfterWriteSeesTheWrite := by
  intro s v off rest hp hoff
  obtain ⟨reg, hreg, rfl⟩ := offset_of_operand hoff
  obtain ⟨t, hrun, hpending, hreply⟩ := write_then_read hp
  refine ⟨t, hrun, hpending, hreply.trans ?_⟩
  rw [portRead_writtenRegs hreg]
  match reg, hreg with
  | .xBase, _ | .yBase, _ | .k, _ | .opa, _ | .opb, _ => simp [busyGuarded, RegName.offset, portRead]

/-! ### Who writes the operand registers (R28 to R33) -/

/-- The effect a host write has on the registers, by what it writes. -/
theorem writtenRegs_effect (slot : Option RegName) (v : Word) (r : Regs) :
    PortWriteEffect slot v r (writtenRegs slot v r) := by
  obtain ⟨r', he, hr⟩ := portWrite_cases (portWrite_eq slot v (State.reset.setRegs r))
  obtain rfl : writtenRegs slot v r = r' := congrArg State.regs hr
  exact he

/-- The five registers a host writes its operands to. -/
def operandRegs (r : Regs) : Word × Word × Word × Word × Word := (r.xBase, r.yBase, r.k, r.opa, r.opb)

theorem acceptedRegs_operandRegs (i : Instr) (r : Regs) : operandRegs (acceptedRegs i r) = operandRegs r := by
  obtain ⟨hx, hy, hk, ha, hb⟩ := acceptedRegs_operands i r
  simp only [operandRegs, hx, hy, hk, ha, hb]

theorem engineEffect_operandRegs {p : Platform} {m m' : Memory} {r r' : Regs} {as : List Word}
    (h : EngineEffect p m m' r as r') : operandRegs r' = operandRegs r := by
  cases h with
  | idle => rfl
  | pair => rw [enginePair_eq]; rfl
  | busErrorX => rfl
  | busErrorY => rfl

section
variable {s t : State}

theorem turnIs_write {off : Nat} {v : Word} {reg : RegName} (turn : turnIs s (writeAt s.platform off v))
    (hs : regAt off = some reg) : turnIs s (writeAt s.platform reg.offset v) := by
  rw [← regAt_eq_some.mp hs]
  exact turn

/-- A step other than reset leaves the five operand registers, or is a host write that sets one of them. -/
theorem step_operands (h : step s = .next t) (noReset : ¬ turnIs s .reset) :
    operandRegs t.regs = operandRegs s.regs ∨
    (s.regs.status.busy = false ∧ ∃ v, turnIs s (writeAt s.platform 0x10 v) ∧ t.regs = s.regs.setXBase v) ∨
    (s.regs.status.busy = false ∧ ∃ v, turnIs s (writeAt s.platform 0x18 v) ∧ t.regs = s.regs.setYBase v) ∨
    (s.regs.status.busy = false ∧ ∃ v, turnIs s (writeAt s.platform 0x20 v) ∧ t.regs = s.regs.setK v) ∨
    (∃ v, turnIs s (writeAt s.platform 0x30 v) ∧ t.regs = s.regs.setOpa v) ∨
    (∃ v, turnIs s (writeAt s.platform 0x38 v) ∧ t.regs = s.regs.setOpb v) := by
  cases step_effect h with
  | engine _ m' he => exact .inl (engineEffect_operandRegs he)
  | read _ _ _ ht => exact .inl (by rw [ht])
  | memory _ _ ht => exact .inl (by rw [ht])
  | reset turn => exact absurd turn noReset
  | write off v turn ht =>
    have he := writtenRegs_effect (regAt off) v s.regs
    rw [← ht] at he
    generalize t.regs = r at he ⊢
    cases he with
    | ignored => exact .inl rfl
    | dropped => exact .inl rfl
    | xBase hs hb => exact .inr (.inl ⟨hb, v, turnIs_write turn hs, rfl⟩)
    | yBase hs hb => exact .inr (.inr (.inl ⟨hb, v, turnIs_write turn hs, rfl⟩))
    | k hs hb => exact .inr (.inr (.inr (.inl ⟨hb, v, turnIs_write turn hs, rfl⟩)))
    | opa hs => exact .inr (.inr (.inr (.inr (.inl ⟨v, turnIs_write turn hs, rfl⟩))))
    | opb hs => exact .inr (.inr (.inr (.inr (.inr ⟨v, turnIs_write turn hs, rfl⟩))))
    | command _ _ i => exact .inl (acceptedRegs_operandRegs i s.regs)
    | illegal => exact .inl rfl

end

/-- Settles O46: in each way a step can leave the operand registers, the ones that change are those written. -/
theorem operandRegistersChangeOnlyByHostWrites : Obligations.OperandRegistersChangeOnlyByHostWrites := by
  intro s t h noReset
  rcases step_operands h noReset with kept | ⟨hb, v, turn, ht⟩ | ⟨hb, v, turn, ht⟩ | ⟨hb, v, turn, ht⟩ | ⟨v, turn, ht⟩ |
    ⟨v, turn, ht⟩
  · simp only [operandRegs, Prod.mk.injEq] at kept
    obtain ⟨hx, hy, hk, ha, hb⟩ := kept
    exact ⟨absurd hx, absurd hy, absurd hk, absurd ha, absurd hb⟩
  all_goals rw [ht]
  · exact ⟨fun _ => ⟨hb, turn⟩, absurd rfl, absurd rfl, absurd rfl, absurd rfl⟩
  · exact ⟨absurd rfl, fun _ => ⟨hb, turn⟩, absurd rfl, absurd rfl, absurd rfl⟩
  · exact ⟨absurd rfl, absurd rfl, fun _ => ⟨hb, turn⟩, absurd rfl, absurd rfl⟩
  · exact ⟨absurd rfl, absurd rfl, absurd rfl, fun _ => turn, absurd rfl⟩
  · exact ⟨absurd rfl, absurd rfl, absurd rfl, absurd rfl, fun _ => turn⟩

/-! ### Who writes the results (R31, R34, R35; 20_memory.md section 3) -/

/-- What a command reports: STATUS, ACC, NITER, IDX and FAULT_INFO. -/
def reportRegs (r : Regs) : Status × Word × Word × Word × Word := (r.status, r.acc, r.niter, r.idx, r.faultInfo)

section
variable {s t : State}

/-- A step from an idle block leaves the report, unless it is a reset or an accepted command other than NOP. -/
theorem step_report_idle (h : step s = .next t) (hb : s.regs.status.busy = false) (noReset : ¬ turnIs s .reset) :
    reportRegs t.regs = reportRegs s.regs ∨
    (∃ i, i ≠ .nop ∧ turnIs s (cmdWrite s.platform (encode i)) ∧ t.regs = acceptedRegs i s.regs) ∨
    (∃ c c', turnIs s (cmdWrite s.platform c) ∧ decode c = .illegal c' ∧ t.regs = illegalRegs c' s.regs) := by
  cases step_effect h with
  | engine _ m' he => exact .inl (by rw [engineEffect_idle he hb])
  | read _ _ _ ht => exact .inl (by rw [ht])
  | memory _ _ ht => exact .inl (by rw [ht])
  | reset turn => exact absurd turn noReset
  | write off v turn ht =>
    have he := writtenRegs_effect (regAt off) v s.regs
    rw [← ht] at he
    generalize t.regs = r at he ⊢
    cases he with
    | dropped busy => exact absurd (hb.symm.trans busy) nofun
    | command hs _ i hd =>
      obtain rfl := decode_eq_command.mp hd
      by_cases hi : i = .nop
      · subst hi
        exact .inl rfl
      · exact .inr (.inl ⟨i, hi, turnIs_write turn hs, rfl⟩)
    | illegal hs _ c hd => exact .inr (.inr ⟨v, c, turnIs_write turn hs, hd, rfl⟩)
    | ignored | xBase | yBase | k | opa | opb => exact .inl rfl

/-- A host write during a run leaves ACC, NITER and IDX; only the engine and reset can change them. -/
theorem step_results_busy (h : step s = .next t) (hb : s.regs.status.busy = true) (noReset : ¬ turnIs s .reset)
    (noEngine : ¬ turnIsEngine s) :
    t.regs.acc = s.regs.acc ∧ t.regs.niter = s.regs.niter ∧ t.regs.idx = s.regs.idx := by
  rcases run_step_cases h hb noReset with turn | ⟨-, hacc, hidx, ho⟩
  · exact absurd turn noEngine
  · obtain ⟨-, -, -, hn⟩ := runOperands_inj.mp ho
    exact ⟨hacc, hn, hidx⟩

end

/-- Settles O47: while a run is in progress no turn but the engine's and reset changes a result; with BUSY = 0 a NOP and
an illegal word leave them too. -/
theorem resultRegistersChangeOnlyByCommandsAndTheEngine :
    Obligations.ResultRegistersChangeOnlyByCommandsAndTheEngine := by
  intro s t h changed
  by_cases reset : turnIs s .reset
  · exact .inl reset
  have not_kept : ¬ (t.regs.acc = s.regs.acc ∧ t.regs.niter = s.regs.niter ∧ t.regs.idx = s.regs.idx) := by tauto
  cases hb : s.regs.status.busy with
  | true =>
    refine .inr (.inl ⟨?_, rfl⟩)
    by_contra noEngine
    exact not_kept (step_results_busy h hb reset noEngine)
  | false =>
    refine .inr (.inr ⟨rfl, ?_⟩)
    rcases step_report_idle h hb reset with kept | ⟨i, hi, turn, -⟩ | ⟨c, c', -, -, ht⟩
    · simp only [reportRegs, Prod.mk.injEq] at kept
      obtain ⟨-, hacc, hn, hidx, -⟩ := kept
      exact absurd ⟨hacc, hn, hidx⟩ not_kept
    · exact ⟨i, hi, turn⟩
    · rw [ht] at not_kept
      exact absurd ⟨rfl, rfl, rfl⟩ not_kept

/-- Settles O48: the commands that do not leave the report are those the statement excepts. -/
theorem resultsStayUntilTheNextCommand : Obligations.ResultsStayUntilTheNextCommand := by
  intro s t hb h noReset noCommand
  rcases step_report_idle h hb noReset with kept | ⟨i, hi, turn, -⟩ | ⟨c, c', turn, hd, -⟩
  · simpa only [reportRegs, Prod.mk.injEq] using kept
  · refine absurd ⟨hb, encode i, turn, ?_⟩ noCommand
    rw [decode_encode]
    exact fun hnop => hi (Decoded.command.inj hnop)
  · refine absurd ⟨hb, c, turn, ?_⟩ noCommand
    rw [hd]
    nofun

end Sys2Proof.Proofs
end

section
/-! PROOFS. The pseudo-instruction HAMMING (30_encoding.md R77): its four host writes, the run they start, and the three
reads that give its result. -/

namespace Sys2Proof.Proofs
open Sys2Proof.Machine

/-! ### The accesses of the script (R76) -/

theorem scriptEvents_hammingStart (p : Platform) (xb yb kv : Word) :
    scriptEvents p (hammingStart xb yb kv) =
      [writeAt p 0x10 xb, writeAt p 0x18 yb, writeAt p 0x20 kv, cmdWrite p (encode .run)] := rfl

theorem scriptEvents_hammingEnd (p : Platform) :
    scriptEvents p (waitLines 1 ++ [.rd .status, .rd .acc]) = [readAt p 0x08, readAt p 0x08, readAt p 0x28] := rfl

section
variable {s : State} {rest : List Event}

/-! ### The start: operands written, RUN accepted -/

/-- The state with the registers `r` and the turns `rest` to come, nothing on the ports. -/
def waiting (s : State) (r : Regs) (rest : List Event) : State := (turnTaken s rest).setRegs r

theorem step_writeXBase {v : Word} (hp : s.pending = writeAt s.platform 0x10 v :: rest)
    (hb : s.regs.status.busy = false) : step s = .next (waiting s (s.regs.setXBase v) rest) := by
  rw [step_writeReg (reg := .xBase) hp, writtenRegs, unlessBusy_idle hb, waiting]

theorem step_waiting_write (reg : RegName) (r : Regs) (v : Word) :
    step (waiting s r (writeAt s.platform reg.offset v :: rest)) = .next (waiting s (writtenRegs (some reg) v r) rest) :=
  step_writeReg (s := waiting s r (writeAt s.platform reg.offset v :: rest)) rfl

theorem step_waiting_yBase (r : Regs) {v : Word} (hb : r.status.busy = false) :
    step (waiting s r (writeAt s.platform 0x18 v :: rest)) = .next (waiting s (r.setYBase v) rest) :=
  (step_waiting_write .yBase r v).trans (by rw [writtenRegs, unlessBusy_idle hb])

theorem step_waiting_k (r : Regs) {v : Word} (hb : r.status.busy = false) :
    step (waiting s r (writeAt s.platform 0x20 v :: rest)) = .next (waiting s (r.setK v) rest) :=
  (step_waiting_write .k r v).trans (by rw [writtenRegs, unlessBusy_idle hb])

theorem step_waiting_run (r : Regs) (hb : r.status.busy = false) :
    step (waiting s r (cmdWrite s.platform (encode .run) :: rest)) = .next (waiting s (runRegs r) rest) :=
  step_runWrite (s := waiting s r (cmdWrite s.platform (encode .run) :: rest)) rfl hb

/-- The registers with the operands of a run written. -/
def loadedRegs (xb yb kv : Word) (r : Regs) : Regs := ((r.setXBase xb).setYBase yb).setK kv

/-- The state in which the script's RUN is accepted: the operands written, the turns in `rest` to come. -/
def hammingLoaded (s : State) (xb yb kv : Word) (rest : List Event) : State :=
  waiting s (loadedRegs xb yb kv s.regs) rest

theorem runSteps_hammingStart {xb yb kv : Word} (hb : s.regs.status.busy = false)
    (hp : s.pending = scriptEvents s.platform (hammingStart xb yb kv) ++ rest) :
    runSteps 4 s = .next ((hammingLoaded s xb yb kv rest).setRegs (runRegs (hammingLoaded s xb yb kv rest).regs)) := by
  rw [scriptEvents_hammingStart] at hp
  calc runSteps 4 s
    _ = runSteps 3 (waiting s (s.regs.setXBase xb) _) := runSteps_succ (step_writeXBase hp hb) 3
    _ = runSteps 2 (waiting s ((s.regs.setXBase xb).setYBase yb) _) :=
      runSteps_succ (step_waiting_yBase (s.regs.setXBase xb) hb) 2
    _ = runSteps 1 (waiting s (loadedRegs xb yb kv s.regs) _) :=
      runSteps_succ (step_waiting_k ((s.regs.setXBase xb).setYBase yb) hb) 1
    _ = .next (waiting s (runRegs (loadedRegs xb yb kv s.regs)) rest) :=
      runSteps_succ (step_waiting_run (loadedRegs xb yb kv s.regs) hb) 0

theorem hammingLoaded_succeeds {xb yb kv : Word} (hb : s.regs.status.busy = false) (hk : 0 ≤ sint64 kv)
    (hx : xb.toNat % 8 = 0) (hy : yb.toNat % 8 = 0)
    (admits : ∀ i < niterOf (sint64 kv).toNat,
      memAdmit s.platform (wordAddr xb i) = true ∧ memAdmit s.platform (wordAddr yb i) = true) :
    RunSucceeds (hammingLoaded s xb yb kv (List.replicate (niterOf (sint64 kv).toNat) (.engine []) ++ rest)) where
  idle := hb
  k_nonneg := hk
  aligned := fun _ => ⟨hx, hy⟩
  admits := admits
  alone := fun e he => by
    change e ∈ (List.replicate (niterOf (sint64 kv).toNat) (Event.engine []) ++ rest).take
      (niterOf (sint64 kv).toNat) at he
    rw [List.take_left' List.length_replicate] at he
    exact List.eq_of_mem_replicate he

/-! ### The end: the reads of a completed run -/

/-- STATUS after a completed run is read with BUSY = 0, ERR = 0 and DONE = 1. -/
theorem statusWord_completed (s : State) :
    (statusWord (completedRegs s).status).getLsbD 0 = false ∧ (statusWord (completedRegs s).status).getLsbD 1 = true ∧
      (statusWord (completedRegs s).status).getLsbD 2 = false := by
  obtain ⟨layout, -⟩ := statusWordLayout
  obtain ⟨hbusy, hdone, herr, -⟩ := layout (completedRegs s).status
  exact ⟨hbusy, hdone, herr⟩

/-- A host read answers the register and leaves everything but the turns. -/
theorem step_read {off : Nat} (hp : s.pending = readAt s.platform off :: rest) (h8 : off % 8 = 0) (hw : off < 0x80) :
    ∃ t, step s = .next t ∧ t.reply = some (portRead (regAt off) s.regs) ∧ t.regs = s.regs ∧
      t.pending = rest ∧ t.platform = s.platform :=
  ⟨_, step_readAt hp h8 hw, rfl, rfl, rfl, rfl⟩

/-- The reads that follow a completed run: the poll ends WAIT, and the last two give ACC as the distance. -/
theorem reads_after_completed {u q : State} (hregs : u.regs = completedRegs q)
    (hp : u.pending = [readAt u.platform 0x08, readAt u.platform 0x08, readAt u.platform 0x28]) :
    ∃ w t v ws st, step u = .next w ∧ w.reply = some ws ∧ waitEnds [ws] = true ∧ step w = .next t ∧
      t.reply = some st ∧ step t = .next v ∧ v.reply = some (completedRegs q).acc ∧
      hammingResult st (completedRegs q).acc = some (.distance (completedRegs q).acc) := by
  obtain ⟨not_busy, is_done, no_error⟩ := statusWord_completed q
  obtain ⟨w, hw, polled, hwr, hwp, hwf⟩ := step_read hp rfl (by decide)
  rw [← hwf] at hwp
  obtain ⟨t, ht, status, htr, htp, htf⟩ := step_read hwp rfl (by decide)
  rw [← htf] at htp
  obtain ⟨v, hv, acc, -⟩ := step_read htp rfl (by decide)
  rw [hregs] at polled
  rw [hwr, hregs] at status
  rw [htr, hwr, hregs] at acc
  refine ⟨w, t, v, _, _, hw, polled, ?_, ht, status, hv, acc, ?_⟩
  · exact congrArg not not_busy
  · change hammingResult (statusWord (completedRegs q).status) _ = _
    rw [hammingResult, no_error, is_done]
    rfl

end

/-- Settles O58: the script starts a successful RUN, the engine's turns complete it, and the reads see its result. -/
theorem hammingScriptReturnsTheDistance : Obligations.HammingScriptReturnsTheDistance := by
  intro s xb yb kv hb hk hx hy k n x y admits hp
  rw [scriptEvents_hammingEnd, List.append_assoc] at hp
  have succeeds := hammingLoaded_succeeds
    (rest := [readAt s.platform 0x08, readAt s.platform 0x08, readAt s.platform 0x28]) hb hk hx hy admits
  obtain ⟨-, u, hrun, hregs, -, hplatform, hpending⟩ := succeeds.completes
  have reads_left : u.pending = [readAt u.platform 0x08, readAt u.platform 0x08, readAt u.platform 0x28] := by
    rw [hpending, hplatform]
    exact List.drop_left' (List.length_replicate ..)
  obtain ⟨w, t, v, ws, st, hw, hws, wait, ht, hst, hv, hacc, result⟩ := reads_after_completed hregs reads_left
  refine ⟨w, t, v, ws, st, _, ?_, hws, wait, ht, hst, hv, hacc, result, completedRegs_acc_toNat hk⟩
  rw [Nat.add_assoc, runSteps_append (runSteps_hammingStart hb hp)]
  exact (runSteps_append hrun 1).trans (runSteps_succ hw 0)

end Sys2Proof.Proofs
end
